-- ==== Sys2Proof/Word.lean ====
section
/-! DEFINITION. The word types of the 43dfg CORE (00_scope.md R6, R8). -/

namespace Sys2Proof

/-- One buffer item, a byte or a character code: `BYTE_W = CHAR_W = 8` bits. -/
abbrev Byte := BitVec 8

/-- A symbol: "an integer in [0,31]", `SYM_W = 5` bits (R77). -/
abbrev Symbol := BitVec 5

/-- The checksum and its accumulator: `CK_W = 40` bits (R33). -/
abbrev CkWord := BitVec 40

/-- A host address: `ADDR_W = 10` bits (R50). -/
abbrev HostAddr := BitVec 10

end Sys2Proof
end

