-- ==== Sys2Proof/Syntax.lean ====
section
/-! DEFINITION. The commands of the block: one constructor for each row of the opcode table (30_encoding.md R72). -/

namespace Sys2Proof

/-- The eight commands, which stand in the place of an instruction set (R1, R72). Their only operand fields are the two
flags of R73; every other operand is implicit (R71). -/
inductive Instr
  /-- `A_ENC`: symbols to characters (R105). -/
  | aEnc
  /-- `A_DEC`: characters to symbols (R106). -/
  | aDec
  /-- `RG85`: bytes to symbols (R125). -/
  | rg85 (pad : Bool)
  /-- `RG58`: symbols to bytes (R126). -/
  | rg58 (pad : Bool)
  /-- `CK_GEN`: compute the checksum symbols (R146). -/
  | ckGen
  /-- `CK_VFY`: verify a symbol sequence that ends in its checksum (R147). -/
  | ckVfy
  /-- `ENCODE`: raw address to text address (R162). -/
  | encode (nopfx : Bool)
  /-- `DECODE`: text address to raw address (R170). -/
  | decode
deriving DecidableEq, Repr

end Sys2Proof
end

