-- ==== Sys2Proof/WellFormed.lean ====
section
/-! DEFINITION. The fields of the one command format `C` (30_encoding.md R71) and the checks that make a command word
legal (R71, R74). An `Instr` holds no field that could be ill formed; a word's fields can. -/

namespace Sys2Proof

/-- The fields of a command word (R71): `op` in bits 3:0, `pad` bit 4, `nopfx` bit 5, reserved bits 7:6. -/
structure CommandFields where
  op : BitVec 4
  pad : Bool
  nopfx : Bool
  reserved : BitVec 2
deriving DecidableEq, Repr

/-- Why a command word is illegal: the five cases of R74. The names are the model's (log 17); the block reports
`IllegalCommand` for each. -/
inductive Illegal
  /-- Bits 7:6 are not 0. -/
  | reservedBits
  /-- `op = 0`. -/
  | zeroOp
  /-- `op` is 9 to 15. -/
  | unassignedOp
  /-- `pad = 1` on a command that is neither `RG85` nor `RG58`. -/
  | padNotAllowed
  /-- `nopfx = 1` on a command that is not `ENCODE`. -/
  | nopfxNotAllowed
deriving DecidableEq, Repr

/-- The first reason for which the fields are no legal command, if there is one (R74). -/
def CommandFields.illegal? (f : CommandFields) : Option Illegal :=
  if f.reserved ≠ 0#2 then some .reservedBits
  else if f.op = 0#4 then some .zeroOp
  else if 8#4 < f.op then some .unassignedOp
  else if f.pad = true ∧ f.op ≠ 3#4 ∧ f.op ≠ 4#4 then some .padNotAllowed
  else if f.nopfx = true ∧ f.op ≠ 7#4 then some .nopfxNotAllowed
  else none

/-- The fields make a legal command word. -/
def CommandFields.wf (f : CommandFields) : Bool := f.illegal?.isNone

/-- The fields of a command, from the `op` and flag columns of R72. -/
def Instr.fields : Instr → CommandFields
  | .aEnc => ⟨1#4, false, false, 0#2⟩
  | .aDec => ⟨2#4, false, false, 0#2⟩
  | .rg85 pad => ⟨3#4, pad, false, 0#2⟩
  | .rg58 pad => ⟨4#4, pad, false, 0#2⟩
  | .ckGen => ⟨5#4, false, false, 0#2⟩
  | .ckVfy => ⟨6#4, false, false, 0#2⟩
  | .encode nopfx => ⟨7#4, false, nopfx, 0#2⟩
  | .decode => ⟨8#4, false, false, 0#2⟩

/-- A command is well formed when its fields are. -/
def Instr.wf (i : Instr) : Bool := i.fields.wf

end Sys2Proof
end

