-- ==== Sys2Proof/Decode.lean ====
section
/-! DEFINITION. Decoding a command word (30_encoding.md R70 step 2, R71, R72, R74) and encoding a command. -/

namespace Sys2Proof

/-- A command word cut into the fields of R71. -/
def fieldsOfWord (v : BitVec 8) : CommandFields where
  op := v.extractLsb' 0 4
  pad := v.getLsbD 4
  nopfx := v.getLsbD 5
  reserved := v.extractLsb' 6 2

/-- The decoder: total on every word, and it rejects an illegal word by name (R72, R74). -/
def decode (v : BitVec 8) : Except Illegal Instr :=
  let f := fieldsOfWord v
  match f.illegal? with
  | some why => .error why
  | none =>
    match f.op with
    | 1#4 => .ok .aEnc
    | 2#4 => .ok .aDec
    | 3#4 => .ok (.rg85 f.pad)
    | 4#4 => .ok (.rg58 f.pad)
    | 5#4 => .ok .ckGen
    | 6#4 => .ok .ckVfy
    | 7#4 => .ok (.encode f.nopfx)
    | 8#4 => .ok .decode
    | _ => .error .unassignedOp

/-- Fields put together to a word (R71). -/
def CommandFields.toWord (f : CommandFields) : BitVec 8 :=
  (f.reserved.setWidth 8 <<< 6) ||| (if f.nopfx then 0x20#8 else 0x00#8) ||| (if f.pad then 0x10#8 else 0x00#8)
    ||| f.op.setWidth 8

/-- The word of a command: the `match` value of its row of R72, with the row's flag at its bit. -/
def encode : Instr → BitVec 8
  | .aEnc => 0x01#8
  | .aDec => 0x02#8
  | .rg85 pad => if pad then 0x13#8 else 0x03#8
  | .rg58 pad => if pad then 0x14#8 else 0x04#8
  | .ckGen => 0x05#8
  | .ckVfy => 0x06#8
  | .encode nopfx => if nopfx then 0x27#8 else 0x07#8
  | .decode => 0x08#8

/-- What the decoder reads from a word as the opcode table numbers its bits. A command is one 8-bit word (R75): more bits
than that make no command. -/
def decodeTableWord (nbits w : Nat) : Option Instr :=
  let v := w % 2 ^ nbits
  if v < 256 then
    match decode (BitVec.ofNat 8 v) with
    | .ok i => some i
    | .error _ => none
  else none

end Sys2Proof
end

