-- ==== Sys2Proof/Config.lean ====
section
/-! DEFINITION. The parameters of 00_scope.md R6 to R8 at their defaults, the address map's bases (R51), and the free value
of a buffer item that nothing has written (93 U3). -/

namespace Sys2Proof.Config

/-! Capacities of the buffers (R8; DESIGN CHOICE of the spec, log 10). -/

/-- Capacity of `PFX`, in items. -/
def PCAP : Nat := 32
/-- Capacity of `IBUF`, in items. -/
def ICAP : Nat := 128
/-- Capacity of `OBUF`, in items. -/
def OCAP : Nat := 128

/-! The host address map (R51). -/

/-- Base address of `PFX`. -/
def pfxBase : Nat := 0x100
/-- Base address of `IBUF`. -/
def ibufBase : Nat := 0x200
/-- Base address of `OBUF`. -/
def obufBase : Nat := 0x300

/-- Address of `CMD`. -/
def cmdAddr : HostAddr := 0x000#10
/-- Address of `STATUS`. -/
def statusAddr : HostAddr := 0x001#10
/-- Address of `PLEN`. -/
def plenAddr : HostAddr := 0x002#10
/-- Address of `ILEN`. -/
def ilenAddr : HostAddr := 0x003#10
/-- Address of `OLEN`. -/
def olenAddr : HostAddr := 0x004#10

/-! Constants that the source fixes (R6). -/

/-- Checksum symbols at the end of a text address. -/
def CK_NSYM : Nat := 8
/-- Bytes in the hash. -/
def HASH_LEN : Nat := 20
/-- Bytes in a raw address. -/
def RAW_LEN : Nat := 21
/-- Value XORed into the accumulator at the end. -/
def CK_FINAL_XOR : CkWord := 1#40
/-- Type tag of pay-to-public-key-hash. -/
def TAG_P2PKH : Byte := 0x00#8
/-- Type tag of pay-to-script-hash. -/
def TAG_P2SH : Byte := 0x08#8

/-! Constants whose values the spec supplies from general knowledge (R7; PRESUMED, log 9). -/

/-- `ALPHABET[0..31]`, the codes of `qpzry9x8gf2tvdw0s3jn54khce6mua7l` (R101). -/
def ALPHABET : Vector Byte 32 :=
  #v[0x71#8, 0x70#8, 0x7A#8, 0x72#8, 0x79#8, 0x39#8, 0x78#8, 0x38#8,
     0x67#8, 0x66#8, 0x32#8, 0x74#8, 0x76#8, 0x64#8, 0x77#8, 0x30#8,
     0x73#8, 0x33#8, 0x6A#8, 0x6E#8, 0x35#8, 0x34#8, 0x6B#8, 0x68#8,
     0x63#8, 0x65#8, 0x36#8, 0x6D#8, 0x75#8, 0x61#8, 0x37#8, 0x6C#8]

/-- `GEN[0..4]`: the five generator constants. -/
def GEN : Vector CkWord 5 :=
  #v[0x98F2BC8E61#40, 0x79B76D99E2#40, 0xF33E5FB3C4#40, 0xAE2EABE2A8#40, 0x1E4F43E470#40]

/-- `CK_INIT`: the accumulator's starting value. -/
def CK_INIT : CkWord := 1#40

/-- `SEP_CODE`: the code of `:`. -/
def SEP_CODE : Byte := 0x3A#8

/-! Free values. -/

/-- The value of a `PFX`, `IBUF` or `OBUF` item that nothing has written since the last reset (R37, U3): any value. It is
applied to the number of the reset and to the item's address, so that an item keeps the value it has until it is written
or the block is reset (R55: a read never changes state). Nothing can be proved of it (log 5). -/
opaque unwrittenItem : Nat → Nat → Byte

end Sys2Proof.Config
end

