-- ==== Sys2Proof/Machine/State.lean ====
section
/-! DEFINITION. The state of the 43dfg CORE (10_state.md) and of its host's script, as plain data; the reset state (R37). -/

namespace Sys2Proof.Machine

/-- The block's errors (60_exceptions.md R190). Code 0 is "no error"; codes 7 and 11 to 15 are never produced. -/
inductive ErrorCode
  | invalidCharacter
  | checksumMismatch
  | invalidPadding
  | unknownAddressType
  | invalidLength
  | wrongNetwork
  | illegalCommand
  | badOperand
  | notReady
deriving DecidableEq, Repr

/-- One event of the total order of R58. -/
inductive Event
  /-- The host writes an item (R55). A write to `CMD` runs a command (R70). -/
  | hostWrite (a : HostAddr) (v : Byte)
  /-- The host reads an item (R55). -/
  | hostRead (a : HostAddr)
  /-- The reset input is asserted, or power comes on (R220). -/
  | reset
  /-- The initialiser has its turn: it does `Init` if that is enabled (R222). -/
  | initialiser
deriving DecidableEq, Repr

/-- The state. Each field's rule and reset value is in INVENTORY.md. -/
structure State where
  /-- `STATUS` (R29): `READY` bit 0, `VOK` bit 1, bits 3:2 reserved, `ERR` bits 7:4. -/
  status : BitVec 8
  /-- `PLEN` (R27). -/
  plen : BitVec 8
  /-- `ILEN` (R27). -/
  ilen : BitVec 8
  /-- `OLEN` (R28). -/
  olen : BitVec 8
  /-- The items of `PFX`, `IBUF` and `OBUF` written since the last reset, by host address, addresses strictly rising
  (R24 to R26, R51). -/
  mem : List Host.Cell
  /-- `RLUT[0..255]` (R23). -/
  rlut : Vector (Option Symbol) 256
  /-- `RG.ACC` (R32). -/
  rgAcc : BitVec 12
  /-- `RG.CNT` (R32). -/
  rgCnt : BitVec 4
  /-- `CK.C` (R33). -/
  ckC : CkWord
  /-- The scratch sequence of symbols (R34). -/
  scratchSyms : List Symbol
  /-- The scratch sequence of bytes (R34). -/
  scratchBytes : List Byte
  /-- The stage number of the sequencer (R34). -/
  stage : Nat
  /-- The model's own: the events still to come, oldest first (R58, log 1). -/
  events : List Event
  /-- The model's own: the value the last `HostRead` returned to the host (R55, log 12). -/
  readData : Byte
  /-- The model's own: how many `Reset` events there have been; it selects the free values of unwritten items (log 13). -/
  resets : Nat
deriving DecidableEq, Repr

/-- Why a step stops with a fault. There is no constructor: no rule of the spec gives the block a fault; it "is never stuck
and never hangs" (R13), and every address of the host address space has a defined read and write (R55). Safe (log 15). -/
inductive Fault
deriving DecidableEq, Repr

/-- Why an instruction has no meaning. -/
inductive Refusal
  /-- Raised by an arm of `exec` whose instruction has no meaning yet; no arm is left that raises it. Safe. -/
  | notModelled (mnemonic : String)
deriving DecidableEq, Repr

/-- The state right after `Reset` (R37, R220). `STATUS`, `PLEN`, `ILEN`, `OLEN` are the spec's values; the buffers list
nothing, so every item is unwritten (U3); `RLUT` and the working registers, which the spec leaves unspecified and
unobservable, have the values of logs 7 and 8 (DESIGN CHOICE); the last three fields are the model's own (logs 1, 12, 13). -/
def State.reset : State where
  status := 0x00#8
  plen := 0#8
  ilen := 0#8
  olen := 0#8
  mem := []
  rlut := Vector.replicate 256 none
  rgAcc := 0#12
  rgCnt := 0#4
  ckC := 0#40
  scratchSyms := []
  scratchBytes := []
  stage := 0
  events := []
  readData := 0#8
  resets := 0

end Sys2Proof.Machine
end

