-- ==== Sys2Proof/Machine/Flags.lean ====
section
/-! DEFINITION. The fields of `STATUS` (10_state.md R29, R31) and the error code numbers (60_exceptions.md R190). -/

namespace Sys2Proof.Machine

/-- The number of an error (R190). -/
def ErrorCode.code : ErrorCode → BitVec 4
  | .invalidCharacter => 1#4
  | .checksumMismatch => 2#4
  | .invalidPadding => 3#4
  | .unknownAddressType => 4#4
  | .invalidLength => 5#4
  | .wrongNetwork => 6#4
  | .illegalCommand => 8#4
  | .badOperand => 9#4
  | .notReady => 10#4

/-- The codes that `STATUS.ERR` may hold (R190): 0 and those of the nine errors. -/
def errLegal (e : BitVec 4) : Bool := e ≤ 6#4 || e = 8#4 || e = 9#4 || e = 10#4

/-- `STATUS.READY`. -/
def State.ready (s : State) : Bool := s.status.getLsbD 0

/-- `STATUS.VOK`. -/
def State.vok (s : State) : Bool := s.status.getLsbD 1

/-- The reserved bits 3:2 of `STATUS`. -/
def State.statusReserved (s : State) : BitVec 2 := s.status.extractLsb' 2 2

/-- `STATUS.ERR`. -/
def State.err (s : State) : BitVec 4 := s.status.extractLsb' 4 4

/-- A status word with `ERR` written and its other bits kept. -/
def statusWithErr (st : BitVec 8) (e : BitVec 4) : BitVec 8 :=
  (st &&& 0x0F#8) ||| (e.setWidth 8 <<< 4)

/-- A status word with `VOK` written and its other bits kept. -/
def statusWithVok (st : BitVec 8) (b : Bool) : BitVec 8 :=
  (st &&& 0xFD#8) ||| (if b then 0x02#8 else 0x00#8)

/-- A status word with `READY` set and its other bits kept. -/
def statusWithReady (st : BitVec 8) : BitVec 8 := st ||| 0x01#8

/-- `STATUS.ERR <- e`. -/
def State.withErr (s : State) (e : BitVec 4) : State := { s with status := statusWithErr s.status e }

/-- `STATUS.VOK <- b`. -/
def State.withVok (s : State) (b : Bool) : State := { s with status := statusWithVok s.status b }

/-- `STATUS.READY <- 1`. -/
def State.withReady (s : State) : State := { s with status := statusWithReady s.status }

end Sys2Proof.Machine
end

