-- ==== Sys2Proof/Machine/Ops.lean ====
section
/-! DEFINITION. The named operations over the buffers and the registers: items of memory (20_memory.md R50 to R57), the
output primitive `out` (00_scope.md R12), the exits of a command (60_exceptions.md R195, R196, R199), the common steps of a
command (30_encoding.md R70), and the initialiser (70_reset_and_hazards.md R222). -/

namespace Sys2Proof.Machine

/-! ### Memory: a list of written items in one canonical form (log 6) -/

/-- The address is that of an item of `PFX`, `IBUF` or `OBUF` (R51). -/
def isBufferAddr (a : Nat) : Bool :=
  (Config.pfxBase ≤ a && a < Config.pfxBase + Config.PCAP)
    || (Config.ibufBase ≤ a && a < Config.ibufBase + Config.ICAP)
    || (Config.obufBase ≤ a && a < Config.obufBase + Config.OCAP)

/-- The item listed at an address; none if nothing has written it since the last reset. -/
def Memory.read : List Host.Cell → Nat → Option Byte
  | [], _ => none
  | c :: cs, a => if c.1 = a then some c.2 else Memory.read cs a

/-- The list with the item at an address written, its order kept. -/
def Memory.write : List Host.Cell → Nat → Byte → List Host.Cell
  | [], a, v => [(a, v)]
  | c :: cs, a, v =>
    if a < c.1 then (a, v) :: c :: cs
    else if a = c.1 then (a, v) :: cs
    else c :: Memory.write cs a v

/-- A run of items written from a base address upwards, in order. -/
def Memory.writeRun : List Host.Cell → Nat → List Byte → List Host.Cell
  | m, _, [] => m
  | m, a, v :: vs => Memory.writeRun (Memory.write m a v) (a + 1) vs

/-- Every address listed is at least `lo`, and the addresses rise strictly. -/
def Memory.rises : Nat → List Host.Cell → Bool
  | _, [] => true
  | lo, c :: cs => decide (lo ≤ c.1) && Memory.rises (c.1 + 1) cs

/-- The canonical form: addresses strictly rising, each one that of a buffer item. What is not listed has not been written
(it has no listed value), so no entry can equal it (log 6). -/
def Memory.wf (m : List Host.Cell) : Bool := Memory.rises 0 m && m.all fun c => isBufferAddr c.1

/-- `MemRead(a, 1)` (R12, R57): the item as last written, or a free value if nothing has written it since the last reset
(U3, log 5). -/
def State.memRead (s : State) (a : Nat) : Byte :=
  (Memory.read s.mem a).getD (Config.unwrittenItem s.resets a)

/-- `MemWrite(a, 1, v)` (R12, R57). -/
def State.memWrite (s : State) (a : Nat) (v : Byte) : State := { s with mem := Memory.write s.mem a v }

/-! ### The exits of a command -/

/-- `out(r)` (R12): the items to `OBUF[0..]`, their number to `OLEN`. -/
def State.out (s : State) (r : List Byte) : State :=
  { s with mem := Memory.writeRun s.mem Config.obufBase r, olen := BitVec.ofNat 8 r.length }

/-- The success exit `done` (R195), `vok` being the value the command's rule gives `VOK`. -/
def State.done (s : State) (vok : Bool) : State := (s.withErr 0#4).withVok vok

/-- The error exit `raise E` (R196), for every error but `NotReady`. -/
def State.raise (s : State) (e : ErrorCode) : State :=
  { (s.withErr e.code).withVok false with olen := 0#8 }

/-- The `NotReady` outcome (R199): `ERR` is written and nothing else. -/
def State.reportNotReady (s : State) : State := s.withErr ErrorCode.notReady.code

/-- The common steps of a command (R70 steps 1, 3 and 4; step 2, decoding, is `issueCommand`'s): `NotReady`, then the
operand checks, then the command's own pseudocode. The pseudocode's effects before a `raise` are discarded (R12, R197), so
the error exit starts from the state before the command. -/
def command (s : State) (bad : Bool) (body : Except ErrorCode State) : Host.Outcome State Fault Refusal :=
  if s.ready then
    if bad then .next (s.raise .badOperand)
    else
      match body with
      | .ok t => .next t
      | .error e => .next (s.raise e)
  else .next s.reportNotReady

/-! ### Working registers (10_state.md R32 to R34, log 8) -/

/-- The regrouper's registers as its loop leaves them. -/
def State.withRg (s : State) (acc : BitVec 12) (cnt : Nat) : State :=
  { s with rgAcc := acc, rgCnt := BitVec.ofNat 4 cnt }

/-- The checksum accumulator as its loop leaves it. -/
def State.withCk (s : State) (c : CkWord) : State := { s with ckC := c }

/-- The assembler's scratch sequences and stage number. -/
def State.withScratch (s : State) (syms : List Symbol) (bytes : List Byte) (stage : Nat) : State :=
  { s with scratchSyms := syms, scratchBytes := bytes, stage := stage }

/-! ### The initialiser and reset -/

/-- The reverse table of an alphabet: first every entry none, then `RLUT[ALPHABET[s]] <- s` for `s` from 0 (R222). -/
def reverseTable (alphabet : Vector Byte 32) : Vector (Option Symbol) 256 :=
  (List.finRange 32).foldl
    (fun t s => t.set (alphabet[s.val]).toNat (some (BitVec.ofNat 5 s.val)) (alphabet[s.val]).isLt)
    (Vector.replicate 256 none)

/-- The initialiser step `Init` (R222): builds `RLUT`, sets `READY`, changes nothing else. -/
def State.init (s : State) : State := { s with rlut := reverseTable Config.ALPHABET }.withReady

/-- `Init` where it is enabled, that is while `READY = 0`; nothing otherwise (R222). -/
def State.initIfEnabled (s : State) : State := if s.ready then s else s.init

/-- The event `Reset` (R220): every piece of the block's state takes its value of R37. The host's own side stays, and the
unwritten items get fresh free values (log 13). -/
def State.resetEvent (s : State) : State :=
  { State.reset with events := s.events, readData := s.readData, resets := s.resets + 1 }

end Sys2Proof.Machine
end

