-- ==== Sys2Proof/Machine/Operands.lean ====
section
/-! DEFINITION. The implicit operands of the commands (00_scope.md R12, 30_encoding.md R78) and the operand checks
(60_exceptions.md R201). -/

namespace Sys2Proof.Machine

/-- The items at `base`, `base + 1`, … `base + n - 1`, as the executor reads them. -/
def State.items (s : State) (base n : Nat) : List Byte := (List.range n).map fun j => s.memRead (base + j)

/-- `in = IBUF[0..ILEN-1]` (R12). -/
def State.inputItems (s : State) : List Byte := s.items Config.ibufBase s.ilen.toNat

/-- `pfx = PFX[0..PLEN-1]` (R12). -/
def State.prefixItems (s : State) : List Byte := s.items Config.pfxBase s.plen.toNat

/-- `OBUF[0..OLEN-1]`, the result sequence (R26). -/
def State.outputItems (s : State) : List Byte := s.items Config.obufBase s.olen.toNat

/-- The symbol of an item: bits 4:0 (R78). -/
def symbolOfItem (v : Byte) : Symbol := v.setWidth 5

/-- The item of a symbol: bits 7:5 are 0 (R78). -/
def itemOfSymbol (x : Symbol) : Byte := x.setWidth 8

/-- The item holds a symbol: its bits 7:5 are 0 (R78). -/
def isSymbolItem (v : Byte) : Bool := v.extractLsb' 5 3 = 0#3

/-- `[in[i][4:0] for i in 0..ILEN-1]`. -/
def State.inputSymbols (s : State) : List Symbol := s.inputItems.map symbolOfItem

/-! The tests of R201. They are pure, so their order is not observable; the item test stands after `ILEN <= ICAP`. -/

/-- `ILEN > ICAP`. -/
def State.ilenOver (s : State) : Bool := Config.ICAP < s.ilen.toNat

/-- `PLEN > PCAP`. -/
def State.plenOver (s : State) : Bool := Config.PCAP < s.plen.toNat

/-- Some `i < ILEN` has `IBUF[i][7:5] != 0`. -/
def State.badSymbolItem (s : State) : Bool := s.inputItems.any fun v => !isSymbolItem v

/-- The number of groups that `n` groups of `fw` bits regroup to, in groups of `tw` bits: `ceil` with padding, `floor`
without (42_bit_regrouper.md R122). -/
def regroupCount (fw tw : Nat) (pad : Bool) (n : Nat) : Nat :=
  if pad then (n * fw + (tw - 1)) / tw else n * fw / tw

/-- The result would not fit `OBUF`. -/
def outOver (n : Nat) : Bool := Config.OCAP < n

/-- The operand check of `A_ENC`. -/
def State.aEncBad (s : State) : Bool := s.ilenOver || s.badSymbolItem || outOver s.ilen.toNat

/-- The operand check of `A_DEC`. -/
def State.aDecBad (s : State) : Bool := s.ilenOver || outOver s.ilen.toNat

/-- The operand check of `RG85`. -/
def State.rg85Bad (s : State) (pad : Bool) : Bool := s.ilenOver || outOver (regroupCount 8 5 pad s.ilen.toNat)

/-- The operand check of `RG58`. -/
def State.rg58Bad (s : State) (pad : Bool) : Bool :=
  s.ilenOver || s.badSymbolItem || outOver (regroupCount 5 8 pad s.ilen.toNat)

/-- The operand check of `CK_GEN`. -/
def State.ckGenBad (s : State) : Bool := s.ilenOver || s.plenOver || s.badSymbolItem

/-- The operand check of `CK_VFY`. -/
def State.ckVfyBad (s : State) : Bool := s.ilenOver || s.plenOver || s.badSymbolItem

/-- The operand check of `ENCODE`. -/
def State.encodeBad (s : State) : Bool := s.ilenOver || s.plenOver

/-- The operand check of `DECODE`. -/
def State.decodeBad (s : State) : Bool := s.ilenOver || s.plenOver

end Sys2Proof.Machine
end

