-- ==== Sys2Proof/Machine/AlphabetCodec.lean ====
section
/-! DEFINITION. The Alphabet Codec: `symbolToChar`, `charToSymbol`, `A_ENC`, `A_DEC` (41_alphabet_codec.md). -/

namespace Sys2Proof.Machine

/-- `symbolToChar(s)` returns `ALPHABET[s]`; it cannot fail (R102). -/
def symbolToChar (x : Symbol) : Byte := Config.ALPHABET[x.toNat]'x.isLt

/-- `charToSymbol(c)` returns `RLUT[c]`; none is the failure `InvalidCharacter` (R103). -/
def charToSymbol (rlut : Vector (Option Symbol) 256) (c : Byte) : Option Symbol := rlut[c.toNat]'c.isLt

/-- `charToSymbol` over a sequence, in order; it fails on the first item that is not in the alphabet (R106, R170 stage 2). -/
def charsToSymbols (rlut : Vector (Option Symbol) 256) : List Byte → Except ErrorCode (List Symbol)
  | [] => .ok []
  | c :: cs =>
    match charToSymbol rlut c with
    | none => .error .invalidCharacter
    | some x =>
      match charsToSymbols rlut cs with
      | .error e => .error e
      | .ok xs => .ok (x :: xs)

/-- The pseudocode of `A_ENC` (R105). -/
def aEncBody (s : State) : Except ErrorCode State :=
  .ok ((s.out (s.inputSymbols.map symbolToChar)).done false)

/-- `A_ENC`: symbols to characters (R105). -/
def execAEnc (s : State) : Host.Outcome State Fault Refusal := command s s.aEncBad (aEncBody s)

/-- The pseudocode of `A_DEC` (R106). -/
def aDecBody (s : State) : Except ErrorCode State :=
  match charsToSymbols s.rlut s.inputItems with
  | .error e => .error e
  | .ok xs => .ok ((s.out (xs.map itemOfSymbol)).done false)

/-- `A_DEC`: characters to symbols (R106). -/
def execADec (s : State) : Host.Outcome State Fault Refusal := command s s.aDecBad (aDecBody s)

end Sys2Proof.Machine
end

