-- ==== Sys2Proof/Machine/BitRegrouper.lean ====
section
/-! DEFINITION. The Bit Regrouper: `regroup`, `RG85`, `RG58` (42_bit_regrouper.md). The function is stated for any widths,
as R121 is; the block uses it from 8 to 5 bits and from 5 to 8 bits only (R120). -/

namespace Sys2Proof.Machine

/-- `RG.ACC` and `RG.CNT` (R32, R121). -/
structure RgRegs (fw tw : Nat) where
  acc : BitVec (fw + tw - 1)
  cnt : Nat
deriving DecidableEq, Repr

/-- The result of `regroup`: the groups, and the registers as the loop leaves them. -/
structure Regrouped (fw tw : Nat) where
  groups : List (BitVec tw)
  regs : RgRegs fw tw
deriving DecidableEq, Repr

/-- `RG.ACC <- ((RG.ACC << fw) | g) & mask(fw + tw - 1)`, `RG.CNT <- RG.CNT + fw` (R121); the mask is the register's width. -/
def rgAbsorb {fw tw : Nat} (r : RgRegs fw tw) (g : BitVec fw) : RgRegs fw tw where
  acc := (r.acc <<< fw) ||| g.setWidth (fw + tw - 1)
  cnt := r.cnt + fw

/-- The loop `while RG.CNT >= tw` of R121: each turn takes `tw` from the count and emits the top `tw` waiting bits. The
first argument bounds the turns; the count itself is always enough (log 18). -/
def rgEmit {fw tw : Nat} : Nat → RgRegs fw tw → Regrouped fw tw
  | 0, r => ⟨[], r⟩
  | fuel + 1, r =>
    if tw ≤ r.cnt then
      let cnt := r.cnt - tw
      let rest := rgEmit fuel ⟨r.acc, cnt⟩
      ⟨(r.acc >>> cnt).setWidth tw :: rest.groups, rest.regs⟩
    else ⟨[], r⟩

/-- The loop `for each g in in` of R121. -/
def rgLoop {fw tw : Nat} : RgRegs fw tw → List (BitVec fw) → Regrouped fw tw
  | r, [] => ⟨[], r⟩
  | r, g :: gs =>
    let a := rgAbsorb r g
    let e := rgEmit a.cnt a
    let rest := rgLoop e.regs gs
    ⟨e.groups ++ rest.groups, rest.regs⟩

/-- `regroup(in, fw, tw, pad)` (R121). With padding the leftover bits go to the top of a last group (R124, C2). -/
def regroup (fw tw : Nat) (pad : Bool) (gs : List (BitVec fw)) : Except ErrorCode (Regrouped fw tw) :=
  let r := rgLoop (tw := tw) ⟨0, 0⟩ gs
  let acc := r.regs.acc
  let cnt := r.regs.cnt
  if pad then
    if 0 < cnt then .ok ⟨r.groups ++ [(acc <<< (tw - cnt)).setWidth tw], r.regs⟩
    else .ok r
  else if fw ≤ cnt then .error .invalidPadding
  else if acc.setWidth cnt ≠ 0 then .error .invalidPadding
  else .ok r

/-- The pseudocode of `RG85` (R125). -/
def rg85Body (pad : Bool) (s : State) : Except ErrorCode State :=
  match regroup 8 5 pad s.inputItems with
  | .error e => .error e
  | .ok r => .ok (((s.withRg r.regs.acc r.regs.cnt).out (r.groups.map itemOfSymbol)).done false)

/-- `RG85`: bytes to symbols (R125). -/
def execRg85 (pad : Bool) (s : State) : Host.Outcome State Fault Refusal := command s (s.rg85Bad pad) (rg85Body pad s)

/-- The pseudocode of `RG58` (R126). -/
def rg58Body (pad : Bool) (s : State) : Except ErrorCode State :=
  match regroup 5 8 pad s.inputSymbols with
  | .error e => .error e
  | .ok r => .ok (((s.withRg r.regs.acc r.regs.cnt).out r.groups).done false)

/-- `RG58`: symbols to bytes (R126). -/
def execRg58 (pad : Bool) (s : State) : Host.Outcome State Fault Refusal := command s (s.rg58Bad pad) (rg58Body pad s)

end Sys2Proof.Machine
end

