-- ==== Sys2Proof/Machine/ChecksumEngine.lean ====
section
/-! DEFINITION. The Checksum Engine: `expand`, `polymod`, `cksum`, `cksyms`, `CK_GEN`, `CK_VFY` (43_checksum_engine.md).
The engine is written for any generator constants and starting value, which are parameters (R7); the commands use the
defaults of Config. -/

namespace Sys2Proof.Machine

/-- `expand(pfx)`: each character's low 5 bits, then one zero symbol (R141). -/
def expand (pfx : List Byte) : List Symbol := pfx.map symbolOfItem ++ [0#5]

/-- The five conditional XORs of a step: bit `i` of `c0` selects `GEN[i]` (R142, G3). -/
def ckFeedback (gen : Vector CkWord 5) (c0 : BitVec 5) (c : CkWord) : CkWord :=
  (List.finRange 5).foldl (fun c i => if c0.getLsbD i.val then c ^^^ gen[i.val] else c) c

/-- One step of the accumulator (R142): extract the top 5 bits, shift and OR, feed back. -/
def ckStep (gen : Vector CkWord 5) (c : CkWord) (d : Symbol) : CkWord :=
  ckFeedback gen (c.extractLsb' 35 5) ((c <<< 5) ||| d.setWidth 40)

/-- The accumulator after a sequence of symbols, from a starting value. -/
def ckRun (gen : Vector CkWord 5) (c : CkWord) (v : List Symbol) : CkWord := v.foldl (ckStep gen) c

/-- `CK.C` after the symbols of `v`, from `CK_INIT` (R142). -/
def ckAcc (v : List Symbol) : CkWord := ckRun Config.GEN Config.CK_INIT v

/-- `polymod(v)` for any parameters: the accumulator XOR 1 (R142). -/
def polymodOf (gen : Vector CkWord 5) (start : CkWord) (v : List Symbol) : CkWord :=
  ckRun gen start v ^^^ Config.CK_FINAL_XOR

/-- `polymod(v)` (R142). -/
def polymod (v : List Symbol) : CkWord := polymodOf Config.GEN Config.CK_INIT v

/-- The symbols that `cksum` runs over: the expanded prefix, the payload, eight zero symbols (R144). -/
def cksumInput (pfx : List Byte) (p : List Symbol) : List Symbol :=
  expand pfx ++ p ++ List.replicate Config.CK_NSYM 0#5

/-- `cksum(pfx, p)` (R144). -/
def cksum (pfx : List Byte) (p : List Symbol) : CkWord := polymod (cksumInput pfx p)

/-- `cksyms(m)`: the 40 bits as eight symbols, most significant first (R145, R82). -/
def cksyms (m : CkWord) : List Symbol := (List.range 8).map fun i => m.extractLsb' (35 - 5 * i) 5

/-- The pseudocode of `CK_GEN` (R146). -/
def ckGenBody (s : State) : Except ErrorCode State :=
  let v := cksumInput s.prefixItems s.inputSymbols
  .ok (((s.withCk (ckAcc v)).out ((cksyms (polymod v)).map itemOfSymbol)).done false)

/-- `CK_GEN`: compute the checksum symbols (R146). -/
def execCkGen (s : State) : Host.Outcome State Fault Refusal := command s s.ckGenBad (ckGenBody s)

/-- The pseudocode of `CK_VFY` (R147): a mismatch is no error, it is `VOK = 0`. -/
def ckVfyBody (s : State) : Except ErrorCode State :=
  let v := expand s.prefixItems ++ s.inputSymbols
  .ok (((s.withCk (ckAcc v)).out []).done (polymod v = 0#40))

/-- `CK_VFY`: verify a symbol sequence that ends in its checksum (R147). -/
def execCkVfy (s : State) : Host.Outcome State Fault Refusal := command s s.ckVfyBad (ckVfyBody s)

end Sys2Proof.Machine
end

