-- ==== Sys2Proof/Machine/AddressAssembler.lean ====
section
/-! DEFINITION. The Address Payload Codec: `ENCODE`, `DECODE` (44_address_payload_assembler.md). -/

namespace Sys2Proof.Machine

/-- The type tag is one of the two legal ones (R76). -/
def tagLegal (tag : Byte) : Bool := tag = Config.TAG_P2PKH || tag = Config.TAG_P2SH

/-- The pseudocode of `ENCODE` (R162), stages 1 to 7. -/
def encodeBody (nopfx : Bool) (s : State) : Except ErrorCode State :=
  let raw := s.inputItems
  if raw.length ≠ Config.RAW_LEN then .error .invalidLength
  else if !tagLegal (raw.headD 0#8) then .error .unknownAddressType
  else
    match regroup 8 5 true raw with
    | .error e => .error e
    | .ok r =>
      let v := cksumInput s.prefixItems r.groups
      let syms := r.groups ++ cksyms (polymod v)
      let text := syms.map symbolToChar
      let full := if nopfx then text else s.prefixItems ++ [Config.SEP_CODE] ++ text
      let t := ((s.withRg r.regs.acc r.regs.cnt).withCk (ckAcc v)).withScratch syms text 7
      .ok ((t.out full).done false)

/-- `ENCODE`: raw address to text address (R162). -/
def execEncode (nopfx : Bool) (s : State) : Host.Outcome State Fault Refusal :=
  command s s.encodeBad (encodeBody nopfx s)

/-- Stage 1 of `DECODE`: the body after the first separator, where the part before it must equal `pfx` (R171, R172). -/
def splitText (pfx text : List Byte) : Except ErrorCode (List Byte) :=
  match text.findIdx? (· = Config.SEP_CODE) with
  | none => .ok text
  | some k => if text.take k ≠ pfx then .error .wrongNetwork else .ok (text.drop (k + 1))

/-- Stages 6 and 7 of `DECODE`: a first byte, a legal tag, 20 bytes after it (R170, R173). -/
def checkRaw (b : List Byte) : Except ErrorCode (List Byte) :=
  match b with
  | [] => .error .invalidLength
  | tag :: hash =>
    if !tagLegal tag then .error .unknownAddressType
    else if hash.length ≠ Config.HASH_LEN then .error .invalidLength
    else .ok b

/-- Stages 3 to 7 of `DECODE` on the symbols of the body (R170): the raw address with the regrouper's registers. -/
def decodeSymbols (pfx : List Byte) (syms : List Symbol) : Except ErrorCode (Regrouped 5 8) :=
  if syms.length < Config.CK_NSYM then .error .invalidLength
  else if polymod (expand pfx ++ syms) ≠ 0#40 then .error .checksumMismatch
  else
    match regroup 5 8 false (syms.take (syms.length - Config.CK_NSYM)) with
    | .error e => .error e
    | .ok r =>
      match checkRaw r.groups with
      | .error e => .error e
      | .ok _ => .ok r

/-- The pseudocode of `DECODE` (R170), stages 1 to 8. -/
def decodeBody (s : State) : Except ErrorCode State :=
  match splitText s.prefixItems s.inputItems with
  | .error e => .error e
  | .ok body =>
    match charsToSymbols s.rlut body with
    | .error e => .error e
    | .ok syms =>
      match decodeSymbols s.prefixItems syms with
      | .error e => .error e
      | .ok r =>
        let c := ckAcc (expand s.prefixItems ++ syms)
        let t := ((s.withRg r.regs.acc r.regs.cnt).withCk c).withScratch syms r.groups 8
        .ok ((t.out r.groups).done true)

/-- `DECODE`: text address to raw address (R170). -/
def execDecode (s : State) : Host.Outcome State Fault Refusal := command s s.decodeBad (decodeBody s)

end Sys2Proof.Machine
end

