-- ==== Sys2Proof/Machine/Dispatch.lean ====
section
/-! DEFINITION. The dispatch: one arm for each command (30_encoding.md R70 step 4, R72). -/

namespace Sys2Proof.Machine

def exec (i : Instr) (s : State) : Host.Outcome State Fault Refusal :=
  match i with
  | .aEnc => Sys2Proof.Machine.execAEnc s
  | .aDec => Sys2Proof.Machine.execADec s
  | .rg85 pad => Sys2Proof.Machine.execRg85 pad s
  | .rg58 pad => Sys2Proof.Machine.execRg58 pad s
  | .ckGen => Sys2Proof.Machine.execCkGen s
  | .ckVfy => Sys2Proof.Machine.execCkVfy s
  | .encode nopfx => Sys2Proof.Machine.execEncode nopfx s
  | .decode => Sys2Proof.Machine.execDecode s

end Sys2Proof.Machine
end

