-- ==== Sys2Proof/Machine/HostAccess.lean ====
section
/-! DEFINITION. What the host can do: the address map, `HostRead`, `HostWrite` (20_memory.md R50 to R56), the issue of a
command (30_encoding.md R70), and one event of the total order (R58). -/

namespace Sys2Proof.Machine

/-- What a host address names (R51), the index of a buffer item included. -/
inductive Location
  | cmd
  | status
  | plen
  | ilen
  | olen
  | pfx (k : Nat)
  | ibuf (k : Nat)
  | obuf (k : Nat)
  | reserved
deriving DecidableEq, Repr

/-- The address map of R51: bits 9:8 select the region, bits 7:0 the index within it. -/
def locate (a : HostAddr) : Location :=
  let k := (a.extractLsb' 0 8).toNat
  match a.extractLsb' 8 2 with
  | 0#2 =>
    if a = Config.cmdAddr then .cmd
    else if a = Config.statusAddr then .status
    else if a = Config.plenAddr then .plen
    else if a = Config.ilenAddr then .ilen
    else if a = Config.olenAddr then .olen
    else .reserved
  | 1#2 => if k < Config.PCAP then .pfx k else .reserved
  | 2#2 => if k < Config.ICAP then .ibuf k else .reserved
  | _ => if k < Config.OCAP then .obuf k else .reserved

/-- The value `HostRead(a)` returns (R55); an `OBUF` item at or above `OLEN` reads 0 (R56). -/
def State.hostReadValue (s : State) (a : HostAddr) : Byte :=
  match locate a with
  | .cmd => 0#8
  | .status => s.status
  | .plen => s.plen
  | .ilen => s.ilen
  | .olen => s.olen
  | .pfx k => s.memRead (Config.pfxBase + k)
  | .ibuf k => s.memRead (Config.ibufBase + k)
  | .obuf k => if k < s.olen.toNat then s.memRead (Config.obufBase + k) else 0#8
  | .reserved => 0#8

/-- The event `HostRead(a)` (R55): the value goes to the host and the block's state stays (log 12). -/
def State.hostRead (s : State) (a : HostAddr) : State := { s with readData := s.hostReadValue a }

/-- A write of `v` to `CMD` (R70 steps 1, 2 and then the command): `NotReady`, `IllegalCommand`, or the command that the
word encodes. -/
def issueCommand (v : Byte) (s : State) : Host.Outcome State Fault Refusal :=
  if s.ready then
    match decode v with
    | .error _ => .next (s.raise .illegalCommand)
    | .ok i => exec i s
  else .next s.reportNotReady

/-- The event `HostWrite(a, v)` (R55): a length register or a `PFX` or `IBUF` item takes the value, a write to `CMD` runs a
command, any other address has no effect. -/
def hostWrite (a : HostAddr) (v : Byte) (s : State) : Host.Outcome State Fault Refusal :=
  match locate a with
  | .cmd => issueCommand v s
  | .plen => .next { s with plen := v }
  | .ilen => .next { s with ilen := v }
  | .pfx k => .next (s.memWrite (Config.pfxBase + k) v)
  | .ibuf k => .next (s.memWrite (Config.ibufBase + k) v)
  | .status => .next s
  | .olen => .next s
  | .obuf _ => .next s
  | .reserved => .next s

/-- One event of the total order (R58), each seeing the effects of all earlier ones. -/
def runEvent (e : Event) (s : State) : Host.Outcome State Fault Refusal :=
  match e with
  | .hostWrite a v => hostWrite a v s
  | .hostRead a => .next (s.hostRead a)
  | .reset => .next s.resetEvent
  | .initialiser => .next s.initIfEnabled

/-- What the block does while no event is left: `Init` if it is enabled, which is not postponed for ever (R222, log 2);
otherwise it is idle with all state held (R206). -/
def idle (s : State) : Host.Outcome State Fault Refusal := .next s.initIfEnabled

/-- The events of a state in which a command word is the next thing the host writes to `CMD`. -/
def State.queueCommand (s : State) (v : Byte) : State :=
  { s with events := .hostWrite Config.cmdAddr v :: s.events }

end Sys2Proof.Machine
end

