-- ==== Sys2Proof/Machine/Step.lean ====
section
/-! DEFINITION. One step: the next event of the total order (20_memory.md R58), and the placing of a command word. -/

namespace Sys2Proof.Machine

/-- One step. The block fetches nothing (R21, R62): what it does next is the oldest event still to come, and with none left
it completes its initialisation or is idle. -/
def step (s : State) : Host.Outcome State Fault Refusal :=
  match s.events with
  | [] => idle s
  | e :: rest => runEvent e { s with events := rest }

/-- The state with a command word placed as the next thing the host writes to `CMD`. A word is decoded only while
`READY = 1` (R70 step 1), so the initialiser's step is taken first if it has not been (log 4). -/
def State.withFetchWord (s : State) (nbits w : Nat) : State :=
  s.initIfEnabled.queueCommand (BitVec.ofNat 8 (w % 2 ^ nbits))

end Sys2Proof.Machine
end

