-- ==== Sys2Proof/Safety.lean ====
section
/-! DEFINITION. What a safe state is (the invariant of the block), and the terms in which claims speak of a command's
outcome: the success exit, the error exit, what is kept, and bit streams. -/

namespace Sys2Proof.Machine

/-- The invariant of the block: what its rules promise of every state that a run reaches. -/
structure State.Inv (s : State) : Prop where
  /-- The written items are listed in canonical form, each at a buffer address (R51, log 6). -/
  memWf : Memory.wf s.mem = true
  /-- `STATUS[3:2]` reads 0 (R29). -/
  reservedZero : s.statusReserved = 0#2
  /-- `ERR` holds no code that is never produced (R190). -/
  errIsLegal : errLegal s.err = true
  /-- The result fits `OBUF` (R26, R57). -/
  olenFits : s.olen.toNat ≤ Config.OCAP
  /-- Every item of the result has been written by a command, so no unspecified item can be read (R56). -/
  resultWritten : ∀ k, k < s.olen.toNat → (Memory.read s.mem (Config.obufBase + k)).isSome = true
  /-- Once `READY` is set the reverse table is the one of the alphabet (R23). -/
  tableBuilt : s.ready = true → s.rlut = reverseTable Config.ALPHABET
  /-- Before `READY` there is no result and no verdict, and no error but `NotReady` (R199). -/
  quietBeforeReady : s.ready = false →
    s.vok = false ∧ s.olen = 0#8 ∧ (s.err = 0#4 ∨ s.err = ErrorCode.notReady.code)
  /-- `VOK` never stands beside an error (R31). -/
  vokNoError : s.vok = true → s.err = 0#4
  /-- `RG.CNT` holds a value of 0 to 12 (R32). -/
  cntSmall : s.rgCnt.toNat ≤ 12
  /-- The scratch sequences stay within `ICAP` items (R34). -/
  scratchFits : s.scratchSyms.length ≤ Config.ICAP ∧ s.scratchBytes.length ≤ Config.ICAP

/-- `n` steps, up to the first stop. -/
def runSteps : Nat → State → Host.Outcome State Fault Refusal
  | 0, s => .next s
  | n + 1, s =>
    match step s with
    | .next t => runSteps n t
    | .fault f => .fault f
    | .refused r => .refused r

/-- A safe run: however many steps the block takes, it has not stopped (R13) and its state keeps the invariant. -/
def SafeRun (s : State) : Prop := ∀ n, ∃ t, runSteps n s = .next t ∧ t.Inv

/-! ### Outcomes of a command -/

/-- What no command changes (R36, R195, R196): `PFX`, `PLEN`, `IBUF`, `ILEN`, `RLUT`, `STATUS.READY`, the reserved bits of
`STATUS`, and the model's own fields. -/
structure KeepsInputs (s t : State) : Prop where
  plen : t.plen = s.plen
  ilen : t.ilen = s.ilen
  rlut : t.rlut = s.rlut
  ready : t.ready = s.ready
  reserved : t.statusReserved = s.statusReserved
  events : t.events = s.events
  readData : t.readData = s.readData
  resets : t.resets = s.resets
  belowObuf : ∀ a, a < Config.obufBase → t.memRead a = s.memRead a

/-- `RG.ACC` and `RG.CNT` are kept. -/
def KeepsRg (s t : State) : Prop := t.rgAcc = s.rgAcc ∧ t.rgCnt = s.rgCnt

/-- `CK.C` is kept. -/
def KeepsCk (s t : State) : Prop := t.ckC = s.ckC

/-- The assembler's scratch sequences and stage number are kept. -/
def KeepsScratch (s t : State) : Prop :=
  t.scratchSyms = s.scratchSyms ∧ t.scratchBytes = s.scratchBytes ∧ t.stage = s.stage

/-- The success exit after `out(r)` (R12, R195): the items of `r` are in `OBUF[0..]` and `OLEN` is their number, `ERR` is 0,
`VOK` is `vok`; every other item of memory and every input is as before (for `OBUF` at and above `OLEN`, which no host event
shows, by log 11). -/
structure SucceedsWith (s t : State) (r : List Byte) (vok : Bool) : Prop where
  err : t.err = 0#4
  vokIs : t.vok = vok
  olen : t.olen.toNat = r.length
  items : ∀ k (h : k < r.length), t.memRead (Config.obufBase + k) = r[k]
  others : ∀ a, (∀ k, k < r.length → a ≠ Config.obufBase + k) → t.memRead a = s.memRead a
  keeps : KeepsInputs s t

/-- The error exit (R196, R197): `ERR` holds the code, `VOK` and `OLEN` are 0, and nothing else has changed. That `OBUF` and
the working registers are kept, which no host event shows, is the choice of logs 11 and 8. -/
structure FailsWith (s t : State) (e : ErrorCode) : Prop where
  err : t.err = e.code
  vokIs : t.vok = false
  olen : t.olen = 0#8
  items : ∀ a, t.memRead a = s.memRead a
  keeps : KeepsInputs s t
  rg : KeepsRg s t
  ck : KeepsCk s t
  scratch : KeepsScratch s t

/-- The `NotReady` outcome (R199): `ERR` holds 10 and nothing else has changed, `VOK` and `OLEN` included. -/
structure IsNotReady (s t : State) : Prop where
  err : t.err = 10#4
  vokIs : t.vok = s.vok
  olen : t.olen = s.olen
  items : ∀ a, t.memRead a = s.memRead a
  keeps : KeepsInputs s t
  rg : KeepsRg s t
  ck : KeepsCk s t
  scratch : KeepsScratch s t

/-! ### Operands, as the rules speak of them -/

/-- Every item of the input is a symbol item: its bits 7:5 are 0 (R78). -/
def SymbolInput (s : State) : Prop :=
  ∀ j, j < s.ilen.toNat → (s.memRead (Config.ibufBase + j)).extractLsb' 5 3 = 0#3

/-- Stream bit `n` of a sequence of `w`-bit groups: big-endian, item 0 first, its most significant bit first (R11, R53). -/
def streamBit {w : Nat} (gs : List (BitVec w)) (n : Nat) : Bool :=
  (gs.getD (n / w) 0).getLsbD (w - 1 - n % w)

/-- Some bit of the stream from `lo` to below `hi` is 1. -/
def SomeBitSet {w : Nat} (gs : List (BitVec w)) (lo hi : Nat) : Prop :=
  ∃ n, lo ≤ n ∧ n < hi ∧ streamBit gs n = true

/-- If the text has a prefix part (everything before its first separator), it equals `pfx` (R171, R172). -/
def PrefixAccepted (pfx text : List Byte) : Prop :=
  Config.SEP_CODE ∈ text → text.takeWhile (· ≠ Config.SEP_CODE) = pfx

/-- The body of a text: everything after its first separator, or all of it if there is none (R171). -/
def textBody (text : List Byte) : List Byte :=
  if Config.SEP_CODE ∈ text then text.drop ((text.takeWhile (· ≠ Config.SEP_CODE)).length + 1) else text

/-- The reverse table is the one that `Init` builds, as it is in every reachable state with `READY = 1` (R23). -/
def State.TableBuilt (s : State) : Prop := s.rlut = reverseTable Config.ALPHABET

end Sys2Proof.Machine
end

