-- ==== Sys2Proof/Certificates/Slice0/Obligations.lean ====
section
/-! DEFINITION. The statements for the provers. Each is a `Prop`; its docstring names the rule it comes from. -/

open Sys2Proof Sys2Proof.Machine

/-! ### Encoding and the issue of a command -/

/-- R72: a word selects a row of the command table exactly if its masked bits are the row's `match`, and the flag of the
command is the flag's bit. -/
def Obligations.WordSelectsItsRowByMaskAndMatch : Prop :=
  ∀ v : BitVec 8,
    (decode v = .ok .aEnc ↔ v &&& 0xFF#8 = 0x01#8) ∧
    (decode v = .ok .aDec ↔ v &&& 0xFF#8 = 0x02#8) ∧
    (∀ pad, decode v = .ok (.rg85 pad) ↔ v &&& 0xEF#8 = 0x03#8 ∧ v.getLsbD 4 = pad) ∧
    (∀ pad, decode v = .ok (.rg58 pad) ↔ v &&& 0xEF#8 = 0x04#8 ∧ v.getLsbD 4 = pad) ∧
    (decode v = .ok .ckGen ↔ v &&& 0xFF#8 = 0x05#8) ∧
    (decode v = .ok .ckVfy ↔ v &&& 0xFF#8 = 0x06#8) ∧
    (∀ nopfx, decode v = .ok (.encode nopfx) ↔ v &&& 0xDF#8 = 0x07#8 ∧ v.getLsbD 5 = nopfx) ∧
    (decode v = .ok .decode ↔ v &&& 0xFF#8 = 0x08#8)

/-- R74, R200: which words are illegal, that 11 are legal, and that with `READY = 1` an illegal word ends with
`IllegalCommand`, whatever the operands are. -/
def Obligations.IllegalWordIsReportedAndDoesNothing : Prop :=
  (∀ v : BitVec 8, (∃ why, decode v = .error why) ↔
    (v.extractLsb' 0 4 = 0#4 ∨ 9#4 ≤ v.extractLsb' 0 4 ∨ v.extractLsb' 6 2 ≠ 0#2 ∨
      (v.getLsbD 4 = true ∧ v.extractLsb' 0 4 ≠ 3#4 ∧ v.extractLsb' 0 4 ≠ 4#4) ∨
      (v.getLsbD 5 = true ∧ v.extractLsb' 0 4 ≠ 7#4))) ∧
  ((List.range 256).filter fun w => (decodeTableWord 8 w).isSome).length = 11 ∧
  ∀ (s : State) (v : Byte) (rest : List Event) (why : Illegal),
    s.events = .hostWrite Config.cmdAddr v :: rest → s.ready = true → decode v = .error why →
      ∃ t, step s = .next t ∧ FailsWith { s with events := rest } t .illegalCommand

/-- R71, R72: decoding the word of a command gives the command back, and a word that decodes to a command is its word. -/
def Obligations.DecodeAndEncodeAgree : Prop :=
  (∀ i : Instr, i.wf = true ∧ decode (encode i) = .ok i) ∧ ∀ (v : BitVec 8) (i : Instr), decode v = .ok i → encode i = v

/-- R30: a write to `CMD` is decoded and executed as one command, and a read of `CMD` returns 0. -/
def Obligations.StepRunsTheCommandWrittenToCmd : Prop :=
  (∀ (s : State) (v : Byte) (rest : List Event) (i : Instr),
    s.events = .hostWrite Config.cmdAddr v :: rest → s.ready = true → decode v = .ok i →
      step s = exec i { s with events := rest }) ∧
  ∀ s : State, s.hostReadValue Config.cmdAddr = 0#8

/-- The model's placing of a command word (log 4): the very next step runs the command the word encodes, after `Init` where
that has not happened. -/
def Obligations.PlacedWordIsRunByTheNextStep : Prop :=
  ∀ (s : State) (w : Nat) (i : Instr), decodeTableWord 8 w = some i →
    (s.initIfEnabled).ready = true ∧ step (s.withFetchWord 8 w) = exec i s.initIfEnabled

/-- R199: while `READY = 0`, a write to `CMD` of any value, legal or not, writes `ERR` and nothing else; and so does any
command. -/
def Obligations.CommandBeforeReadyOnlyReportsNotReady : Prop :=
  (∀ (s : State) (v : Byte) (rest : List Event),
    s.events = .hostWrite Config.cmdAddr v :: rest → s.ready = false →
      ∃ t, step s = .next t ∧ IsNotReady { s with events := rest } t) ∧
  ∀ (i : Instr) (s : State), s.ready = false → ∃ t, exec i s = .next t ∧ IsNotReady s t

/-- R13: the block is never stuck: every step answers a next state, and so does every command in every state. -/
def Obligations.BlockIsNeverStuck : Prop :=
  (∀ s : State, ∃ t, step s = .next t) ∧ ∀ (i : Instr) (s : State), ∃ t, exec i s = .next t

/-! ### The host's accesses -/

/-- R51, R55: what a host write does at every address but `CMD`. -/
def Obligations.HostWriteChangesOnlyTheAddressedItem : Prop :=
  ∀ (s : State) (a : HostAddr) (v : Byte) (rest : List Event), s.events = .hostWrite a v :: rest →
    (a.toNat = 2 → step s = .next { s with events := rest, plen := v }) ∧
    (a.toNat = 3 → step s = .next { s with events := rest, ilen := v }) ∧
    (0x100 ≤ a.toNat ∧ a.toNat < 0x120 ∨ 0x200 ≤ a.toNat ∧ a.toNat < 0x280 →
      ∃ m, step s = .next { s with events := rest, mem := m } ∧
        ∀ b, { s with mem := m }.memRead b = if b = a.toNat then v else s.memRead b) ∧
    (a.toNat = 1 ∨ 4 ≤ a.toNat ∧ a.toNat < 0x100 ∨ 0x120 ≤ a.toNat ∧ a.toNat < 0x200 ∨ 0x280 ≤ a.toNat →
      step s = .next { s with events := rest })

/-- R51, R55, R56: what a host read returns at every address, and that it changes nothing of the block. -/
def Obligations.HostReadReturnsTheAddressedItem : Prop :=
  ∀ (s : State) (a : HostAddr) (rest : List Event), s.events = .hostRead a :: rest →
    ∃ v, step s = .next { s with events := rest, readData := v } ∧
      (a.toNat = 1 → v = s.status) ∧ (a.toNat = 2 → v = s.plen) ∧ (a.toNat = 3 → v = s.ilen) ∧
      (a.toNat = 4 → v = s.olen) ∧
      (0x100 ≤ a.toNat ∧ a.toNat < 0x120 ∨ 0x200 ≤ a.toNat ∧ a.toNat < 0x280 → v = s.memRead a.toNat) ∧
      (0x300 ≤ a.toNat ∧ a.toNat < 0x380 → v = if a.toNat - 0x300 < s.olen.toNat then s.memRead a.toNat else 0#8) ∧
      (a.toNat = 0 ∨ 5 ≤ a.toNat ∧ a.toNat < 0x100 ∨ 0x120 ≤ a.toNat ∧ a.toNat < 0x200 ∨
        0x280 ≤ a.toNat ∧ a.toNat < 0x300 ∨ 0x380 ≤ a.toNat → v = 0#8)

/-- R56: a read of `OBUF[i]` returns the item a command last wrote if `i < OLEN` and 0 otherwise, so after an error every
read of `OBUF` returns 0. -/
def Obligations.OutputIsGatedByOlen : Prop :=
  (∀ (s : State) (k : Nat), k < Config.OCAP →
    s.hostReadValue (BitVec.ofNat 10 (Config.obufBase + k)) =
      if k < s.olen.toNat then s.memRead (Config.obufBase + k) else 0#8) ∧
  (∀ (i : Instr) (s t : State), s.ready = true → exec i s = .next t → t.err = 0#4 →
    ∃ r, SucceedsWith s t r t.vok ∧ r.length ≤ Config.OCAP ∧ ∀ k (h : k < r.length),
      t.hostReadValue (BitVec.ofNat 10 (Config.obufBase + k)) = r[k]) ∧
  ∀ (i : Instr) (s t : State) (k : Nat), s.ready = true → exec i s = .next t → t.err ≠ 0#4 → k < Config.OCAP →
    t.hostReadValue (BitVec.ofNat 10 (Config.obufBase + k)) = 0#8

/-! ### Reset and the initialiser -/

/-- R37: the values after reset that the spec states. What it leaves unspecified is not listed (memory) or not claimed. -/
def Obligations.ResetStateHasTheStatedValues : Prop :=
  State.reset.ready = false ∧ State.reset.vok = false ∧ State.reset.err = 0#4 ∧ State.reset.statusReserved = 0#2 ∧
    State.reset.plen = 0#8 ∧ State.reset.ilen = 0#8 ∧ State.reset.olen = 0#8 ∧
    ∀ a : HostAddr, locate a = .status ∨ 0x300 ≤ a.toNat → State.reset.hostReadValue a = 0#8

/-- R220: `Reset` at any point gives `STATUS`, `PLEN`, `ILEN`, `OLEN` their reset values. The last two clauses are the
model's choice: no item is listed as written, its form of R220's "unspecified" (logs 5, 6 and 13), and the later events are
still to come (log 13). -/
def Obligations.ResetEventRestoresTheResetValues : Prop :=
  ∀ (s : State) (rest : List Event), s.events = .reset :: rest →
    ∃ t, step s = .next t ∧ t.status = 0x00#8 ∧ t.ready = false ∧ t.vok = false ∧ t.err = 0#4 ∧
      t.plen = 0#8 ∧ t.ilen = 0#8 ∧ t.olen = 0#8 ∧ (∀ a, Memory.read t.mem a = none) ∧ t.events = rest

/-- R222: `Init` builds the reverse table, sets `READY` and changes nothing else; it is enabled only while `READY = 0`. -/
def Obligations.InitBuildsTheTableAndSetsReady : Prop :=
  ∀ (s : State) (rest : List Event), s.events = .initialiser :: rest →
    (s.ready = false → ∃ t, step s = .next t ∧ t.ready = true ∧
      (∀ (c : Byte) (x : Symbol), charToSymbol t.rlut c = some x ↔ symbolToChar x = c) ∧
      t.err = s.err ∧ t.vok = s.vok ∧ t.statusReserved = s.statusReserved ∧
      { t with status := s.status, rlut := s.rlut } = { s with events := rest }) ∧
    (s.ready = true → step s = .next { s with events := rest })

/-- With no event left the block is idle with all state held (R206), but for `Init`, which is not postponed for ever (R222;
that it comes at once is the model's choice, log 2). -/
def Obligations.BlockWithoutEventsInitialisesOrIdles : Prop :=
  ∀ s : State, s.events = [] →
    (s.ready = true → step s = .next s) ∧ (s.ready = false → step s = .next s.init ∧ s.init.ready = true)

/-- R23, R104: for any alphabet of 32 distinct codes the table that `Init` builds is its inverse. -/
def Obligations.ReverseTableInvertsEveryAlphabet : Prop :=
  ∀ alphabet : Vector Byte 32, (∀ j k : Fin 32, alphabet[j] = alphabet[k] → j = k) →
    ∀ (c : Byte) (x : Symbol),
      charToSymbol (reverseTable alphabet) c = some x ↔ alphabet[x.toNat]'x.isLt = c

/-! ### The invariant -/

/-- The reset state meets the invariant. -/
def Obligations.ResetMeetsTheInvariant : Prop := State.reset.Inv

/-- Every step keeps the invariant, from every state that meets it. -/
def Obligations.StepKeepsTheInvariant : Prop :=
  ∀ s t : State, s.Inv → step s = .next t → t.Inv

/-- R13: from every state that meets the invariant, the block runs for any number of steps without stopping, and every
state on the way meets the invariant. -/
def Obligations.EveryRunFromASafeStateIsSafe : Prop := ∀ s : State, s.Inv → SafeRun s

/-! ### What every command keeps -/

/-- R36: no command writes `PFX`, `PLEN`, `IBUF`, `ILEN`, `RLUT` or `STATUS.READY`. -/
def Obligations.NoCommandWritesItsOperands : Prop :=
  ∀ (i : Instr) (s t : State), exec i s = .next t → KeepsInputs s t

/-- The model's choice (log 8): the working registers a command does not use are kept: `A_ENC` and `A_DEC` use none, `RG85`
and `RG58` only the regrouper's, `CK_GEN` and `CK_VFY` only the checksum engine's. No rule says that they are kept; R35
leaves their values between commands unobservable. -/
def Obligations.CommandKeepsTheWorkingRegistersItDoesNotUse : Prop :=
  (∀ (i : Instr) (s t : State), i = .aEnc ∨ i = .aDec → exec i s = .next t →
    KeepsRg s t ∧ KeepsCk s t ∧ KeepsScratch s t) ∧
  (∀ (pad : Bool) (i : Instr) (s t : State), i = .rg85 pad ∨ i = .rg58 pad → exec i s = .next t →
    KeepsCk s t ∧ KeepsScratch s t) ∧
  ∀ (i : Instr) (s t : State), i = .ckGen ∨ i = .ckVfy → exec i s = .next t → KeepsRg s t ∧ KeepsScratch s t

/-- R196, R197: a command that ends in error changes nothing but `ERR`, `VOK` and `OLEN`. Two clauses are the model's choice:
that `OBUF` is kept, where R197 lets a model change it (log 11), and that the working registers are (log 8). -/
def Obligations.FailedCommandChangesOnlyItsReport : Prop :=
  ∀ (i : Instr) (s t : State), s.ready = true → exec i s = .next t → t.err ≠ 0#4 →
    ∃ e, e ≠ .notReady ∧ FailsWith s t e

/-- R31: `READY` is set only by `Init` and cleared only by reset. -/
def Obligations.ReadyIsSetByInitAndClearedByReset : Prop :=
  ∀ s t : State, step s = .next t →
    (s.ready = true → t.ready = false → ∃ rest, s.events = .reset :: rest) ∧
    (s.ready = false → t.ready = true → t.rlut = reverseTable Config.ALPHABET ∧
      (s.events = [] ∨ ∃ rest, s.events = .initialiser :: rest))

/-- R31: after a command `VOK` is 1 exactly if the command is a `CK_VFY` that found the sequence valid or a `DECODE` that
succeeded. -/
def Obligations.VokIsTheVerdictOfVerifyOrDecode : Prop :=
  ∀ (i : Instr) (s t : State), s.ready = true → exec i s = .next t →
    (t.vok = true ↔ t.err = 0#4 ∧
      (i = .decode ∨ i = .ckVfy ∧ polymod (expand s.prefixItems ++ s.inputSymbols) = 0#40))

/-- The codes a command may report when `READY = 1` (R190's column "raised by", R203). -/
def Obligations.EachCommandReportsOnlyItsOwnErrors : Prop :=
  ∀ (i : Instr) (s t : State), s.ready = true → exec i s = .next t →
    match i with
    | .aEnc => t.err ∈ [0#4, 9#4]
    | .aDec => t.err ∈ [0#4, 1#4, 9#4]
    | .rg85 pad => t.err ∈ [0#4, 9#4] ∨ pad = false ∧ t.err = 3#4
    | .rg58 pad => t.err ∈ [0#4, 9#4] ∨ pad = false ∧ t.err = 3#4
    | .ckGen => t.err ∈ [0#4, 9#4]
    | .ckVfy => t.err ∈ [0#4, 9#4]
    | .encode _ => t.err ∈ [0#4, 4#4, 5#4, 9#4]
    | .decode => t.err ∈ [0#4, 1#4, 2#4, 3#4, 4#4, 5#4, 6#4, 9#4]

/-- R61: issuing the same command twice leaves everything the host can read as the first issue left it. -/
def Obligations.RepeatingACommandIsIdempotent : Prop :=
  ∀ (i : Instr) (s t u : State), exec i s = .next t → exec i t = .next u →
    ∀ a : HostAddr, u.hostReadValue a = t.hostReadValue a

/-- R61, R198, R35: what a command reports depends on its operands and the reverse table only: not on an earlier result,
verdict or error, nor on a working register. -/
def Obligations.OutcomeDependsOnlyOnTheOperands : Prop :=
  ∀ (i : Instr) (s s' t t' : State), s.ready = true → s'.ready = true →
    s'.prefixItems = s.prefixItems → s'.inputItems = s.inputItems → s'.rlut = s.rlut →
    exec i s = .next t → exec i s' = .next t' →
      t'.err = t.err ∧ t'.vok = t.vok ∧ t'.olen = t.olen ∧ t'.outputItems = t.outputItems

/-- R201: each of the table's tests gives the error exit with code 9. -/
def Obligations.BadOperandTestsGiveTheErrorExit : Prop :=
  ∀ (i : Instr) (s : State), s.ready = true →
    (Config.ICAP < s.ilen.toNat ∨
      ((i = .ckGen ∨ i = .ckVfy ∨ i = .decode ∨ ∃ n, i = .encode n) ∧ Config.PCAP < s.plen.toNat) ∨
      ((i = .aEnc ∨ i = .ckGen ∨ i = .ckVfy ∨ ∃ p, i = .rg58 p) ∧ ¬SymbolInput s) ∨
      ((i = .aEnc ∨ i = .aDec) ∧ Config.OCAP < s.ilen.toNat) ∨
      (i = .rg85 true ∧ Config.OCAP < (8 * s.ilen.toNat + 4) / 5) ∨
      (i = .rg85 false ∧ Config.OCAP < 8 * s.ilen.toNat / 5) ∨
      (i = .rg58 true ∧ Config.OCAP < (5 * s.ilen.toNat + 7) / 8) ∨
      (i = .rg58 false ∧ Config.OCAP < 5 * s.ilen.toNat / 8)) →
    ∃ t, exec i s = .next t ∧ FailsWith s t .badOperand

/-! ### The commands -/

/-- R105: `A_ENC`. -/
def Obligations.AEncWritesTheCharacterOfEachSymbol : Prop :=
  decode 0x01#8 = .ok .aEnc ∧
  (∀ s : State, s.ready = false → ∃ t, exec .aEnc s = .next t ∧ IsNotReady s t) ∧
  (∀ s : State, s.ready = true → Config.ICAP < s.ilen.toNat ∨ Config.OCAP < s.ilen.toNat ∨ ¬SymbolInput s →
    ∃ t, exec .aEnc s = .next t ∧ FailsWith s t .badOperand) ∧
  ∀ s : State, s.ready = true → s.ilen.toNat ≤ Config.ICAP → s.ilen.toNat ≤ Config.OCAP → SymbolInput s →
    ∃ t, exec .aEnc s = .next t ∧
      SucceedsWith s t (s.inputItems.map fun v => symbolToChar (v.extractLsb' 0 5)) false

/-- R106: `A_DEC`. -/
def Obligations.ADecWritesTheSymbolOfEachCharacter : Prop :=
  decode 0x02#8 = .ok .aDec ∧
  (∀ s : State, s.ready = false → ∃ t, exec .aDec s = .next t ∧ IsNotReady s t) ∧
  (∀ s : State, s.ready = true → Config.ICAP < s.ilen.toNat ∨ Config.OCAP < s.ilen.toNat →
    ∃ t, exec .aDec s = .next t ∧ FailsWith s t .badOperand) ∧
  (∀ s : State, s.ready = true → s.ilen.toNat ≤ Config.ICAP → s.ilen.toNat ≤ Config.OCAP →
    (∃ c ∈ s.inputItems, charToSymbol s.rlut c = none) →
      ∃ t, exec .aDec s = .next t ∧ FailsWith s t .invalidCharacter) ∧
  ∀ (s : State) (xs : List Symbol), s.ready = true → s.ilen.toNat ≤ Config.ICAP → s.ilen.toNat ≤ Config.OCAP →
    s.inputItems.map (charToSymbol s.rlut) = xs.map some →
      ∃ t, exec .aDec s = .next t ∧ SucceedsWith s t (xs.map fun x => x.setWidth 8) false

/-- R125: `RG85`. -/
def Obligations.Rg85RegroupsBytesToSymbols : Prop :=
  decode 0x03#8 = .ok (.rg85 false) ∧ decode 0x13#8 = .ok (.rg85 true) ∧
  (∀ (pad : Bool) (s : State), s.ready = false → ∃ t, exec (.rg85 pad) s = .next t ∧ IsNotReady s t) ∧
  (∀ (pad : Bool) (s : State), s.ready = true →
    Config.ICAP < s.ilen.toNat ∨ Config.OCAP < (if pad then (8 * s.ilen.toNat + 4) / 5 else 8 * s.ilen.toNat / 5) →
      ∃ t, exec (.rg85 pad) s = .next t ∧ FailsWith s t .badOperand) ∧
  (∀ s : State, s.ready = true → s.ilen.toNat ≤ Config.ICAP → 8 * s.ilen.toNat / 5 ≤ Config.OCAP →
    SomeBitSet s.inputItems (8 * s.ilen.toNat - 8 * s.ilen.toNat % 5) (8 * s.ilen.toNat) →
      ∃ t, exec (.rg85 false) s = .next t ∧ FailsWith s t .invalidPadding) ∧
  ∀ (pad : Bool) (s : State), s.ready = true → s.ilen.toNat ≤ Config.ICAP →
    (if pad then (8 * s.ilen.toNat + 4) / 5 else 8 * s.ilen.toNat / 5) ≤ Config.OCAP →
    (pad = false → ¬SomeBitSet s.inputItems (8 * s.ilen.toNat - 8 * s.ilen.toNat % 5) (8 * s.ilen.toNat)) →
      ∃ r t, regroup 8 5 pad s.inputItems = .ok r ∧ exec (.rg85 pad) s = .next t ∧
        SucceedsWith s t (r.groups.map fun x => x.setWidth 8) false ∧
        t.olen.toNat = if pad then (8 * s.ilen.toNat + 4) / 5 else 8 * s.ilen.toNat / 5

/-- R126: `RG58`. -/
def Obligations.Rg58RegroupsSymbolsToBytes : Prop :=
  decode 0x04#8 = .ok (.rg58 false) ∧ decode 0x14#8 = .ok (.rg58 true) ∧
  (∀ (pad : Bool) (s : State), s.ready = false → ∃ t, exec (.rg58 pad) s = .next t ∧ IsNotReady s t) ∧
  (∀ (pad : Bool) (s : State), s.ready = true →
    Config.ICAP < s.ilen.toNat ∨ ¬SymbolInput s ∨
      Config.OCAP < (if pad then (5 * s.ilen.toNat + 7) / 8 else 5 * s.ilen.toNat / 8) →
      ∃ t, exec (.rg58 pad) s = .next t ∧ FailsWith s t .badOperand) ∧
  (∀ s : State, s.ready = true → s.ilen.toNat ≤ Config.ICAP → SymbolInput s → 5 * s.ilen.toNat / 8 ≤ Config.OCAP →
    5 ≤ 5 * s.ilen.toNat % 8 ∨
      SomeBitSet s.inputSymbols (5 * s.ilen.toNat - 5 * s.ilen.toNat % 8) (5 * s.ilen.toNat) →
      ∃ t, exec (.rg58 false) s = .next t ∧ FailsWith s t .invalidPadding) ∧
  ∀ (pad : Bool) (s : State), s.ready = true → s.ilen.toNat ≤ Config.ICAP → SymbolInput s →
    (if pad then (5 * s.ilen.toNat + 7) / 8 else 5 * s.ilen.toNat / 8) ≤ Config.OCAP →
    (pad = false → 5 * s.ilen.toNat % 8 < 5 ∧
      ¬SomeBitSet s.inputSymbols (5 * s.ilen.toNat - 5 * s.ilen.toNat % 8) (5 * s.ilen.toNat)) →
      ∃ r t, regroup 5 8 pad s.inputSymbols = .ok r ∧ exec (.rg58 pad) s = .next t ∧
        SucceedsWith s t r.groups false ∧
        t.olen.toNat = if pad then (5 * s.ilen.toNat + 7) / 8 else 5 * s.ilen.toNat / 8

/-- R146: `CK_GEN`. -/
def Obligations.CkGenWritesTheEightChecksumSymbols : Prop :=
  decode 0x05#8 = .ok .ckGen ∧
  (∀ s : State, s.ready = false → ∃ t, exec .ckGen s = .next t ∧ IsNotReady s t) ∧
  (∀ s : State, s.ready = true → Config.ICAP < s.ilen.toNat ∨ Config.PCAP < s.plen.toNat ∨ ¬SymbolInput s →
    ∃ t, exec .ckGen s = .next t ∧ FailsWith s t .badOperand) ∧
  ∀ s : State, s.ready = true → s.ilen.toNat ≤ Config.ICAP → s.plen.toNat ≤ Config.PCAP → SymbolInput s →
    ∃ t, exec .ckGen s = .next t ∧ t.olen = 8#8 ∧
      SucceedsWith s t ((cksyms (cksum s.prefixItems s.inputSymbols)).map fun x => x.setWidth 8) false

/-- R147: `CK_VFY`. -/
def Obligations.CkVfyReportsTheVerdictInVok : Prop :=
  decode 0x06#8 = .ok .ckVfy ∧
  (∀ s : State, s.ready = false → ∃ t, exec .ckVfy s = .next t ∧ IsNotReady s t) ∧
  (∀ s : State, s.ready = true → Config.ICAP < s.ilen.toNat ∨ Config.PCAP < s.plen.toNat ∨ ¬SymbolInput s →
    ∃ t, exec .ckVfy s = .next t ∧ FailsWith s t .badOperand) ∧
  ∀ s : State, s.ready = true → s.ilen.toNat ≤ Config.ICAP → s.plen.toNat ≤ Config.PCAP → SymbolInput s →
    ∃ t, exec .ckVfy s = .next t ∧
      SucceedsWith s t [] (decide (polymod (expand s.prefixItems ++ s.inputSymbols) = 0#40))

/-- R162: `ENCODE`. -/
def Obligations.EncodeWritesTheTextOfARawAddress : Prop :=
  decode 0x07#8 = .ok (.encode false) ∧ decode 0x27#8 = .ok (.encode true) ∧
  (∀ (n : Bool) (s : State), s.ready = false → ∃ t, exec (.encode n) s = .next t ∧ IsNotReady s t) ∧
  (∀ (n : Bool) (s : State), s.ready = true → Config.ICAP < s.ilen.toNat ∨ Config.PCAP < s.plen.toNat →
    ∃ t, exec (.encode n) s = .next t ∧ FailsWith s t .badOperand) ∧
  (∀ (n : Bool) (s : State), s.ready = true → s.ilen.toNat ≤ Config.ICAP → s.plen.toNat ≤ Config.PCAP →
    s.ilen ≠ 21#8 → ∃ t, exec (.encode n) s = .next t ∧ FailsWith s t .invalidLength) ∧
  (∀ (n : Bool) (s : State), s.ready = true → s.plen.toNat ≤ Config.PCAP → s.ilen = 21#8 →
    s.memRead Config.ibufBase ≠ 0x00#8 → s.memRead Config.ibufBase ≠ 0x08#8 →
      ∃ t, exec (.encode n) s = .next t ∧ FailsWith s t .unknownAddressType) ∧
  ∀ (n : Bool) (s : State), s.ready = true → s.plen.toNat ≤ Config.PCAP → s.ilen = 21#8 →
    s.memRead Config.ibufBase = 0x00#8 ∨ s.memRead Config.ibufBase = 0x08#8 →
      ∃ r t, regroup 8 5 true s.inputItems = .ok r ∧ r.groups.length = 34 ∧ exec (.encode n) s = .next t ∧
        SucceedsWith s t
          ((if n then [] else s.prefixItems ++ [Config.SEP_CODE]) ++
            (r.groups ++ cksyms (cksum s.prefixItems r.groups)).map symbolToChar) false ∧
        t.olen.toNat = if n then 42 else s.plen.toNat + 43

/-- R170: `DECODE`, stage by stage; the first stage that fails decides. -/
def Obligations.DecodeRunsItsStagesInOrder : Prop :=
  decode 0x08#8 = .ok .decode ∧
  (∀ s : State, s.ready = false → ∃ t, exec .decode s = .next t ∧ IsNotReady s t) ∧
  (∀ s : State, s.ready = true → Config.ICAP < s.ilen.toNat ∨ Config.PCAP < s.plen.toNat →
    ∃ t, exec .decode s = .next t ∧ FailsWith s t .badOperand) ∧
  ∀ s : State, s.ready = true → s.ilen.toNat ≤ Config.ICAP → s.plen.toNat ≤ Config.PCAP →
    (¬PrefixAccepted s.prefixItems s.inputItems → ∃ t, exec .decode s = .next t ∧ FailsWith s t .wrongNetwork) ∧
    (PrefixAccepted s.prefixItems s.inputItems →
      (∃ c ∈ textBody s.inputItems, charToSymbol s.rlut c = none) →
        ∃ t, exec .decode s = .next t ∧ FailsWith s t .invalidCharacter) ∧
    (PrefixAccepted s.prefixItems s.inputItems → ∀ syms : List Symbol,
      (textBody s.inputItems).map (charToSymbol s.rlut) = syms.map some →
        (syms.length < 8 → ∃ t, exec .decode s = .next t ∧ FailsWith s t .invalidLength) ∧
        (8 ≤ syms.length → polymod (expand s.prefixItems ++ syms) ≠ 0#40 →
          ∃ t, exec .decode s = .next t ∧ FailsWith s t .checksumMismatch) ∧
        (8 ≤ syms.length → polymod (expand s.prefixItems ++ syms) = 0#40 →
          (regroup 5 8 false (syms.take (syms.length - 8)) = .error .invalidPadding →
            ∃ t, exec .decode s = .next t ∧ FailsWith s t .invalidPadding) ∧
          ∀ r, regroup 5 8 false (syms.take (syms.length - 8)) = .ok r →
            (r.groups = [] → ∃ t, exec .decode s = .next t ∧ FailsWith s t .invalidLength) ∧
            ∀ tag hash, r.groups = tag :: hash →
              (tag ≠ 0x00#8 → tag ≠ 0x08#8 →
                ∃ t, exec .decode s = .next t ∧ FailsWith s t .unknownAddressType) ∧
              (tag = 0x00#8 ∨ tag = 0x08#8 → hash.length ≠ 20 →
                ∃ t, exec .decode s = .next t ∧ FailsWith s t .invalidLength) ∧
              (tag = 0x00#8 ∨ tag = 0x08#8 → hash.length = 20 →
                ∃ t, exec .decode s = .next t ∧ t.olen = 21#8 ∧ SucceedsWith s t r.groups true)))

/-! ### The alphabet codec -/

/-- R107: `A_DEC` on the output of `A_ENC` gives the symbol items back, and `A_ENC` on the output of a successful `A_DEC`
the character items. -/
def Obligations.AlphabetCommandsUndoEachOther : Prop :=
  (∀ s : State, s.ready = true → s.ilen.toNat ≤ Config.ICAP → SymbolInput s →
    ∃ t, exec .aEnc s = .next t ∧ ∀ u : State, u.ready = true → u.TableBuilt → u.inputItems = t.outputItems →
      ∃ v, exec .aDec u = .next v ∧ SucceedsWith u v s.inputItems false) ∧
  ∀ s t u : State, s.ready = true → s.TableBuilt → exec .aDec s = .next t → t.err = 0#4 →
    u.ready = true → u.inputItems = t.outputItems →
      ∃ v, exec .aEnc u = .next v ∧ SucceedsWith u v s.inputItems false

/-! ### The bit regrouper -/

/-- R122, R123, R124: with padding, `regroup` never fails, and its groups are the input's bit stream cut into groups, with
zeros after its end. For any two widths. -/
def Obligations.PaddedRegroupIsTheBitStream : Prop :=
  ∀ (fw tw : Nat) (gs : List (BitVec fw)), 1 ≤ fw → 1 ≤ tw →
    ∃ r, regroup fw tw true gs = .ok r ∧ r.groups.length = (gs.length * fw + (tw - 1)) / tw ∧
      ∀ n, n < tw * r.groups.length →
        streamBit r.groups n = if n < gs.length * fw then streamBit gs n else false

/-- R122, R123: without padding, `regroup` fails exactly if `fw` or more bits are left over or one of them is 1, and
otherwise its groups are the input's bit stream without the left-over bits. For any two widths. -/
def Obligations.UnpaddedRegroupIsTheBitStreamOrFails : Prop :=
  ∀ (fw tw : Nat) (gs : List (BitVec fw)), 1 ≤ fw → 1 ≤ tw →
    (regroup fw tw false gs = .error .invalidPadding ↔
      fw ≤ gs.length * fw % tw ∨
        SomeBitSet gs (gs.length * fw - gs.length * fw % tw) (gs.length * fw)) ∧
    ∀ r, regroup fw tw false gs = .ok r →
      r.groups.length = gs.length * fw / tw ∧
        ∀ n, n < tw * r.groups.length → streamBit r.groups n = streamBit gs n

/-- R127: bytes to symbols with padding and back without gives the bytes. -/
def Obligations.BytesSurviveRegroupingAndBack : Prop :=
  ∀ b : List Byte, ∃ r q, regroup 8 5 true b = .ok r ∧ regroup 5 8 false r.groups = .ok q ∧ q.groups = b

/-- R127: symbols to bytes without padding, where that does not fail, and back with padding gives the symbols. -/
def Obligations.SymbolsSurviveRegroupingAndBack : Prop :=
  ∀ (xs : List Symbol) (q : Regrouped 5 8), regroup 5 8 false xs = .ok q →
    ∃ r, regroup 8 5 true q.groups = .ok r ∧ r.groups = xs

/-- R127 in commands: `RG58` on the output of `RG85.P` gives the input bytes back. -/
def Obligations.Rg58UndoesPaddedRg85 : Prop :=
  ∀ s : State, s.ready = true → s.ilen.toNat ≤ 80 →
    ∃ t, exec (.rg85 true) s = .next t ∧ ∀ u : State, u.ready = true → u.inputItems = t.outputItems →
      ∃ v, exec (.rg58 false) u = .next v ∧ SucceedsWith u v s.inputItems false

/-- R32: `RG.CNT` stays below `tw` between groups and at most `fw + tw - 1` after one is absorbed: at most 12 in both
directions of the hardware, so it fits 4 bits and the accumulator's 12 bits are enough. -/
def Obligations.RegrouperCountFitsItsRegister : Prop :=
  ∀ (fw tw : Nat) (gs : List (BitVec fw)) (g : BitVec fw), 1 ≤ tw →
    let r := (rgLoop (tw := tw) ⟨0, 0⟩ gs).regs
    r.cnt < tw ∧ r.cnt = gs.length * fw % tw ∧ (rgAbsorb r g).cnt ≤ fw + tw - 1

/-! ### The checksum engine -/

/-- R82: checksum symbol `j` is `m[39-5j : 35-5j]`. -/
def Obligations.ChecksumSymbolsAreTheBitsOfTheChecksum : Prop :=
  ∀ m : CkWord, (cksyms m).length = 8 ∧
    ∀ j k, j < 8 → k < 5 → ((cksyms m).getD j 0#5).getLsbD k = m.getLsbD (35 - 5 * j + k)

/-- R143 (d): `polymod` is affine over sequences of one length, for any constants and starting value. -/
def Obligations.PolymodIsAffine : Prop :=
  ∀ (gen : Vector CkWord 5) (start : CkWord) (a b : List Symbol), a.length = b.length →
    polymodOf gen start a ^^^ polymodOf gen start b ^^^ polymodOf gen start (List.replicate a.length 0#5) =
      polymodOf gen start (List.zipWith (fun x y => x ^^^ y) a b)

/-- R148: a sequence that ends in its own checksum symbols reduces to zero, for any constants and starting value. -/
def Obligations.GeneratedChecksumVerifies : Prop :=
  ∀ (gen : Vector CkWord 5) (start : CkWord) (v : List Symbol),
    polymodOf gen start (v ++ cksyms (polymodOf gen start (v ++ List.replicate 8 0#5))) = 0#40

/-- R148 in commands: what `CK_GEN` wrote, put behind the payload, makes `CK_VFY` say valid. -/
def Obligations.CkVfyAcceptsWhatCkGenWrote : Prop :=
  ∀ s : State, s.ready = true → s.ilen.toNat ≤ 120 → s.plen.toNat ≤ Config.PCAP → SymbolInput s →
    ∃ t, exec .ckGen s = .next t ∧ ∀ u : State, u.ready = true → u.prefixItems = s.prefixItems →
      u.inputItems = s.inputItems ++ t.outputItems →
        ∃ v, exec .ckVfy u = .next v ∧ SucceedsWith u v [] true

/-- R150, with the default constants (R7, log 9): changing exactly one symbol of a sequence that `CK_VFY` finds valid makes
`CK_VFY` find it not valid. -/
def Obligations.SingleSymbolChangeIsDetected : Prop :=
  ∀ (s s' t : State) (j : Nat) (d : Symbol), exec .ckVfy s = .next t → s.ready = true → t.vok = true →
    s'.ready = true → s'.prefixItems = s.prefixItems → s'.inputSymbols = s.inputSymbols.set j d →
    j < s.inputSymbols.length → s.inputSymbols.getD j 0#5 ≠ d →
      ∃ t', exec .ckVfy s' = .next t' ∧ t'.vok = false

/-- R149, with the default constants (R7, log 9): two prefixes whose expansions differ in one symbol give one payload
different checksums. -/
def Obligations.ChecksumIsBoundToThePrefix : Prop :=
  ∀ (pfx : List Byte) (j : Nat) (c : Byte) (p : List Symbol), j < pfx.length →
    (pfx.getD j 0#8).extractLsb' 0 5 ≠ c.extractLsb' 0 5 → cksum (pfx.set j c) p ≠ cksum pfx p

/-- R141: bits 7:5 of the prefix characters do not enter the checksum: two states whose prefixes have the same low five bits
get the same symbols from `CK_GEN` and the same verdict from `CK_VFY`. -/
def Obligations.HighBitsOfThePrefixAreNotBound : Prop :=
  ∀ s s' : State, s.ready = true → s'.ready = true →
    s'.prefixItems.map (fun c => c.extractLsb' 0 5) = s.prefixItems.map (fun c => c.extractLsb' 0 5) →
    s'.inputItems = s.inputItems →
    (∀ t t', exec .ckGen s = .next t → exec .ckGen s' = .next t' →
      t'.err = t.err ∧ t'.outputItems = t.outputItems) ∧
    ∀ t t', exec .ckVfy s = .next t → exec .ckVfy s' = .next t' → t'.err = t.err ∧ t'.vok = t.vok

/-! ### The address assembler -/

/-- R163: a successful `ENCODE` writes `PLEN + 43` or 42 items, the last 42 of which are characters of the alphabet whose
symbols verify under the prefix. -/
def Obligations.EncodedTextVerifiesUnderItsPrefix : Prop :=
  ∀ (n : Bool) (s t : State), s.ready = true → exec (.encode n) s = .next t → t.err = 0#4 →
    t.outputItems.length = (if n then 42 else s.plen.toNat + 43) ∧
      ∃ syms : List Symbol, syms.length = 42 ∧
        t.outputItems = (if n then [] else s.prefixItems ++ [Config.SEP_CODE]) ++ syms.map symbolToChar ∧
        polymod (expand s.prefixItems ++ syms) = 0#40

/-- R81: the payload characters of an encoded address are the 168 bits of the raw address, big-endian, cut into groups of
five, the last filled up with two zero bits at its low end. -/
def Obligations.PayloadBitsAreTheRawAddressBits : Prop :=
  ∀ s t : State, s.ready = true → exec (.encode true) s = .next t → t.err = 0#4 →
    ∀ j, j < 34 → ∃ x : Symbol, t.memRead (Config.obufBase + j) = symbolToChar x ∧
      ∀ k, k < 5 → x.getLsbD k =
        if 5 * j + (4 - k) < 168 then
          (s.memRead (Config.ibufBase + (5 * j + (4 - k)) / 8)).getLsbD (7 - (5 * j + (4 - k)) % 8)
        else false

/-- R175: for every raw address with a legal tag, every prefix (without the separator where it is written) and both values
of `nopfx`, `DECODE` of what `ENCODE` wrote, under the same prefix, succeeds and returns the raw address. -/
def Obligations.DecodeUndoesEncode : Prop :=
  ∀ (n : Bool) (s : State), s.ready = true → s.plen.toNat ≤ Config.PCAP → s.ilen = 21#8 →
    s.memRead Config.ibufBase = 0x00#8 ∨ s.memRead Config.ibufBase = 0x08#8 →
    (n = false → Config.SEP_CODE ∉ s.prefixItems) →
      ∃ t, exec (.encode n) s = .next t ∧ ∀ u : State, u.ready = true → u.TableBuilt →
        u.prefixItems = s.prefixItems → u.inputItems = t.outputItems →
          ∃ v, exec .decode u = .next v ∧ SucceedsWith u v s.inputItems true

/-- R175, conversely: if `DECODE` succeeds, `ENCODE` of its result under the same prefix writes the text again, with `nopfx`
as the text lacks its prefix part. -/
def Obligations.EncodeUndoesDecode : Prop :=
  ∀ s t u : State, s.ready = true → s.TableBuilt → exec .decode s = .next t → t.err = 0#4 →
    u.ready = true → u.prefixItems = s.prefixItems → u.inputItems = t.outputItems →
      ∃ v, exec (.encode (decide (Config.SEP_CODE ∉ s.inputItems))) u = .next v ∧
        SucceedsWith u v s.inputItems false

/-- R175, its last sentence: with a separator in the prefix, `ENCODE` with `nopfx = 0` still succeeds, but `DECODE` of its
text under that prefix fails with `WrongNetwork`. -/
def Obligations.SeparatorInThePrefixBreaksDecode : Prop :=
  ∀ s : State, s.ready = true → s.plen.toNat ≤ Config.PCAP → s.ilen = 21#8 →
    s.memRead Config.ibufBase = 0x00#8 ∨ s.memRead Config.ibufBase = 0x08#8 →
    Config.SEP_CODE ∈ s.prefixItems →
      ∃ t, exec (.encode false) s = .next t ∧ t.err = 0#4 ∧ ∀ u : State, u.ready = true →
        u.prefixItems = s.prefixItems → u.inputItems = t.outputItems →
          ∃ v, exec .decode u = .next v ∧ FailsWith u v .wrongNetwork

/-- R174: exactly when `DECODE` succeeds, and with which bytes. -/
def Obligations.DecodeSucceedsExactlyOnValidTexts : Prop :=
  ∀ s t : State, s.ready = true → s.TableBuilt → s.ilen.toNat ≤ Config.ICAP → s.plen.toNat ≤ Config.PCAP →
    exec .decode s = .next t →
    (t.err = 0#4 ↔ PrefixAccepted s.prefixItems s.inputItems ∧ ∃ syms : List Symbol,
      textBody s.inputItems = syms.map symbolToChar ∧ syms.length = 42 ∧
      polymod (expand s.prefixItems ++ syms) = 0#40 ∧
      (syms.getD 33 0#5).extractLsb' 0 2 = 0#2 ∧ syms.getD 0 0#5 ≤ 1#5 ∧ (syms.getD 1 0#5).extractLsb' 2 3 = 0#3) ∧
    ∀ syms : List Symbol, t.err = 0#4 → textBody s.inputItems = syms.map symbolToChar →
      t.outputItems.length = 21 ∧ ∀ n, n < 168 → streamBit t.outputItems n = streamBit syms n

/-- R160, R162: `ENCODE` with `nopfx = 1` writes what `RG85` with padding, `CK_GEN` and `A_ENC` write one after the other
when the host copies each result back. -/
def Obligations.EncodeIsTheCompositionOfTheSubBlocks : Prop :=
  ∀ s0 t0 s1 t1 s2 t2 s3 t3 : State,
    s0.ready = true → s1.ready = true → s2.ready = true → s3.ready = true →
    exec (.encode true) s0 = .next t0 → t0.err = 0#4 →
    s1.inputItems = s0.inputItems → exec (.rg85 true) s1 = .next t1 →
    s2.prefixItems = s0.prefixItems → s2.inputItems = t1.outputItems → exec .ckGen s2 = .next t2 →
    s3.inputItems = t1.outputItems ++ t2.outputItems → exec .aEnc s3 = .next t3 →
      t1.err = 0#4 ∧ t2.err = 0#4 ∧ t3.err = 0#4 ∧ t3.outputItems = t0.outputItems
end

