-- ==== Sys2Proof/Laws/Checksum.lean ====
section
/-! SUPPORT. The Checksum Engine's functions, said once. -/

namespace Sys2Proof.Machine

variable (gen : Vector CkWord 5)

@[simp] theorem ckRun_nil (c : CkWord) : ckRun gen c [] = c := rfl

@[simp] theorem ckRun_cons (c : CkWord) (d : Symbol) (v : List Symbol) :
    ckRun gen c (d :: v) = ckRun gen (ckStep gen c d) v := rfl

/-- A run over two sequences is the run over the second from where the first ends. -/
theorem ckRun_append (c : CkWord) (v w : List Symbol) : ckRun gen c (v ++ w) = ckRun gen (ckRun gen c v) w := by
  simp [ckRun]

/-- The feedback as five conditional XORs written out. -/
theorem ckFeedback_eq (c0 : BitVec 5) (c : CkWord) :
    ckFeedback gen c0 c = c ^^^ (if c0.getLsbD 0 then gen[0] else 0#40) ^^^ (if c0.getLsbD 1 then gen[1] else 0#40)
      ^^^ (if c0.getLsbD 2 then gen[2] else 0#40) ^^^ (if c0.getLsbD 3 then gen[3] else 0#40)
      ^^^ (if c0.getLsbD 4 then gen[4] else 0#40) := by
  have step (b : Bool) (x g : CkWord) : (if b then x ^^^ g else x) = x ^^^ (if b then g else 0#40) := by
    cases b <;> simp
  simp only [ckFeedback, show List.finRange 5 = [0, 1, 2, 3, 4] from rfl, List.foldl_cons, List.foldl_nil, step]
  rfl

@[simp] theorem cksyms_length (m : CkWord) : (cksyms m).length = 8 := by simp [cksyms]

@[simp] theorem expand_length (pfx : List Byte) : (expand pfx).length = pfx.length + 1 := by simp [expand]

/-- The feedback of the accumulator of a XOR is the XOR of the feedbacks' parts: only the fed-back constants depend on
`c0`. -/
theorem ckFeedback_xor (c0 : BitVec 5) (c x : CkWord) : ckFeedback gen c0 (c ^^^ x) = ckFeedback gen c0 c ^^^ x := by
  simp only [ckFeedback_eq]
  ac_rfl

end Sys2Proof.Machine
end

