-- ==== Sys2Proof/Laws/Codec.lean ====
section
/-! SUPPORT. The Alphabet Codec's functions, said once. -/

namespace Sys2Proof.Machine

/-- `charsToSymbols` succeeds exactly with the symbols that the table gives, item by item. -/
theorem charsToSymbols_ok_iff {rlut : Vector (Option Symbol) 256} {cs : List Byte} {xs : List Symbol} :
    charsToSymbols rlut cs = .ok xs ↔ cs.map (charToSymbol rlut) = xs.map some := by
  induction cs generalizing xs with
  | nil => cases xs <;> simp [charsToSymbols]
  | cons c cs ih =>
    unfold charsToSymbols
    cases hc : charToSymbol rlut c with
    | none => cases xs <;> simp [hc]
    | some x =>
      cases hr : charsToSymbols rlut cs with
      | error e =>
        have : ∀ ys : List Symbol, cs.map (charToSymbol rlut) ≠ ys.map some := fun ys h => by
          rw [ih.2 h] at hr; cases hr
        cases xs with
        | nil => simp
        | cons y ys => simp [hc, this ys]
      | ok ys =>
        have hys := ih.1 hr
        cases xs with
        | nil => simp
        | cons z zs =>
          have inj := List.map_injective_iff.2 (Option.some_injective Symbol)
          simp only [List.map_cons, hc, Except.ok.injEq, List.cons.injEq, Option.some.injEq, hys]
          exact and_congr_right fun _ => inj.eq_iff.symm

/-- `charsToSymbols` fails exactly when some item is not in the table, and then with `InvalidCharacter`. -/
theorem charsToSymbols_error_iff {rlut : Vector (Option Symbol) 256} {cs : List Byte} {e : ErrorCode} :
    charsToSymbols rlut cs = .error e ↔ e = .invalidCharacter ∧ ∃ c ∈ cs, charToSymbol rlut c = none := by
  induction cs with
  | nil => simp [charsToSymbols]
  | cons c cs ih =>
    unfold charsToSymbols
    cases hc : charToSymbol rlut c with
    | none => simp [hc, eq_comm]
    | some x =>
      cases hr : charsToSymbols rlut cs with
      | error e' =>
        rw [hr] at ih
        simpa [hc] using ih
      | ok ys =>
        rw [hr] at ih
        simpa [hc] using ih

theorem charsToSymbols_length {rlut : Vector (Option Symbol) 256} {cs : List Byte} {xs : List Symbol}
    (h : charsToSymbols rlut cs = .ok xs) : xs.length = cs.length := by
  simpa using (congrArg List.length (charsToSymbols_ok_iff.1 h)).symm

end Sys2Proof.Machine
end

