-- ==== Sys2Proof/Laws/State.lean ====
section
/-! SUPPORT. What each update of the state does to each field, one lemma per field per update. -/

namespace Sys2Proof.Machine

variable (s : State)

/-! ### `memWrite` -/

@[simp] theorem State.memWrite_status (a : Nat) (v : Byte) : (s.memWrite a v).status = s.status := rfl
@[simp] theorem State.memWrite_plen (a : Nat) (v : Byte) : (s.memWrite a v).plen = s.plen := rfl
@[simp] theorem State.memWrite_ilen (a : Nat) (v : Byte) : (s.memWrite a v).ilen = s.ilen := rfl
@[simp] theorem State.memWrite_olen (a : Nat) (v : Byte) : (s.memWrite a v).olen = s.olen := rfl
@[simp] theorem State.memWrite_mem (a : Nat) (v : Byte) : (s.memWrite a v).mem = Memory.write s.mem a v := rfl
@[simp] theorem State.memWrite_rlut (a : Nat) (v : Byte) : (s.memWrite a v).rlut = s.rlut := rfl
@[simp] theorem State.memWrite_rgAcc (a : Nat) (v : Byte) : (s.memWrite a v).rgAcc = s.rgAcc := rfl
@[simp] theorem State.memWrite_rgCnt (a : Nat) (v : Byte) : (s.memWrite a v).rgCnt = s.rgCnt := rfl
@[simp] theorem State.memWrite_ckC (a : Nat) (v : Byte) : (s.memWrite a v).ckC = s.ckC := rfl
@[simp] theorem State.memWrite_scratchSyms (a : Nat) (v : Byte) : (s.memWrite a v).scratchSyms = s.scratchSyms := rfl
@[simp] theorem State.memWrite_scratchBytes (a : Nat) (v : Byte) : (s.memWrite a v).scratchBytes = s.scratchBytes := rfl
@[simp] theorem State.memWrite_stage (a : Nat) (v : Byte) : (s.memWrite a v).stage = s.stage := rfl
@[simp] theorem State.memWrite_events (a : Nat) (v : Byte) : (s.memWrite a v).events = s.events := rfl
@[simp] theorem State.memWrite_readData (a : Nat) (v : Byte) : (s.memWrite a v).readData = s.readData := rfl
@[simp] theorem State.memWrite_resets (a : Nat) (v : Byte) : (s.memWrite a v).resets = s.resets := rfl

/-! ### `withErr` -/

@[simp] theorem State.withErr_status (e : BitVec 4) : (s.withErr e).status = statusWithErr s.status e := rfl
@[simp] theorem State.withErr_plen (e : BitVec 4) : (s.withErr e).plen = s.plen := rfl
@[simp] theorem State.withErr_ilen (e : BitVec 4) : (s.withErr e).ilen = s.ilen := rfl
@[simp] theorem State.withErr_olen (e : BitVec 4) : (s.withErr e).olen = s.olen := rfl
@[simp] theorem State.withErr_mem (e : BitVec 4) : (s.withErr e).mem = s.mem := rfl
@[simp] theorem State.withErr_rlut (e : BitVec 4) : (s.withErr e).rlut = s.rlut := rfl
@[simp] theorem State.withErr_rgAcc (e : BitVec 4) : (s.withErr e).rgAcc = s.rgAcc := rfl
@[simp] theorem State.withErr_rgCnt (e : BitVec 4) : (s.withErr e).rgCnt = s.rgCnt := rfl
@[simp] theorem State.withErr_ckC (e : BitVec 4) : (s.withErr e).ckC = s.ckC := rfl
@[simp] theorem State.withErr_scratchSyms (e : BitVec 4) : (s.withErr e).scratchSyms = s.scratchSyms := rfl
@[simp] theorem State.withErr_scratchBytes (e : BitVec 4) : (s.withErr e).scratchBytes = s.scratchBytes := rfl
@[simp] theorem State.withErr_stage (e : BitVec 4) : (s.withErr e).stage = s.stage := rfl
@[simp] theorem State.withErr_events (e : BitVec 4) : (s.withErr e).events = s.events := rfl
@[simp] theorem State.withErr_readData (e : BitVec 4) : (s.withErr e).readData = s.readData := rfl
@[simp] theorem State.withErr_resets (e : BitVec 4) : (s.withErr e).resets = s.resets := rfl

/-! ### `withVok` -/

@[simp] theorem State.withVok_status (b : Bool) : (s.withVok b).status = statusWithVok s.status b := rfl
@[simp] theorem State.withVok_plen (b : Bool) : (s.withVok b).plen = s.plen := rfl
@[simp] theorem State.withVok_ilen (b : Bool) : (s.withVok b).ilen = s.ilen := rfl
@[simp] theorem State.withVok_olen (b : Bool) : (s.withVok b).olen = s.olen := rfl
@[simp] theorem State.withVok_mem (b : Bool) : (s.withVok b).mem = s.mem := rfl
@[simp] theorem State.withVok_rlut (b : Bool) : (s.withVok b).rlut = s.rlut := rfl
@[simp] theorem State.withVok_rgAcc (b : Bool) : (s.withVok b).rgAcc = s.rgAcc := rfl
@[simp] theorem State.withVok_rgCnt (b : Bool) : (s.withVok b).rgCnt = s.rgCnt := rfl
@[simp] theorem State.withVok_ckC (b : Bool) : (s.withVok b).ckC = s.ckC := rfl
@[simp] theorem State.withVok_scratchSyms (b : Bool) : (s.withVok b).scratchSyms = s.scratchSyms := rfl
@[simp] theorem State.withVok_scratchBytes (b : Bool) : (s.withVok b).scratchBytes = s.scratchBytes := rfl
@[simp] theorem State.withVok_stage (b : Bool) : (s.withVok b).stage = s.stage := rfl
@[simp] theorem State.withVok_events (b : Bool) : (s.withVok b).events = s.events := rfl
@[simp] theorem State.withVok_readData (b : Bool) : (s.withVok b).readData = s.readData := rfl
@[simp] theorem State.withVok_resets (b : Bool) : (s.withVok b).resets = s.resets := rfl

/-! ### `withReady` -/

@[simp] theorem State.withReady_status : s.withReady.status = statusWithReady s.status := rfl
@[simp] theorem State.withReady_plen : s.withReady.plen = s.plen := rfl
@[simp] theorem State.withReady_ilen : s.withReady.ilen = s.ilen := rfl
@[simp] theorem State.withReady_olen : s.withReady.olen = s.olen := rfl
@[simp] theorem State.withReady_mem : s.withReady.mem = s.mem := rfl
@[simp] theorem State.withReady_rlut : s.withReady.rlut = s.rlut := rfl
@[simp] theorem State.withReady_rgAcc : s.withReady.rgAcc = s.rgAcc := rfl
@[simp] theorem State.withReady_rgCnt : s.withReady.rgCnt = s.rgCnt := rfl
@[simp] theorem State.withReady_ckC : s.withReady.ckC = s.ckC := rfl
@[simp] theorem State.withReady_scratchSyms : s.withReady.scratchSyms = s.scratchSyms := rfl
@[simp] theorem State.withReady_scratchBytes : s.withReady.scratchBytes = s.scratchBytes := rfl
@[simp] theorem State.withReady_stage : s.withReady.stage = s.stage := rfl
@[simp] theorem State.withReady_events : s.withReady.events = s.events := rfl
@[simp] theorem State.withReady_readData : s.withReady.readData = s.readData := rfl
@[simp] theorem State.withReady_resets : s.withReady.resets = s.resets := rfl

/-! ### `out` -/

@[simp] theorem State.out_status (r : List Byte) : (s.out r).status = s.status := rfl
@[simp] theorem State.out_plen (r : List Byte) : (s.out r).plen = s.plen := rfl
@[simp] theorem State.out_ilen (r : List Byte) : (s.out r).ilen = s.ilen := rfl
@[simp] theorem State.out_olen (r : List Byte) : (s.out r).olen = BitVec.ofNat 8 r.length := rfl
@[simp] theorem State.out_mem (r : List Byte) : (s.out r).mem = Memory.writeRun s.mem Config.obufBase r := rfl
@[simp] theorem State.out_rlut (r : List Byte) : (s.out r).rlut = s.rlut := rfl
@[simp] theorem State.out_rgAcc (r : List Byte) : (s.out r).rgAcc = s.rgAcc := rfl
@[simp] theorem State.out_rgCnt (r : List Byte) : (s.out r).rgCnt = s.rgCnt := rfl
@[simp] theorem State.out_ckC (r : List Byte) : (s.out r).ckC = s.ckC := rfl
@[simp] theorem State.out_scratchSyms (r : List Byte) : (s.out r).scratchSyms = s.scratchSyms := rfl
@[simp] theorem State.out_scratchBytes (r : List Byte) : (s.out r).scratchBytes = s.scratchBytes := rfl
@[simp] theorem State.out_stage (r : List Byte) : (s.out r).stage = s.stage := rfl
@[simp] theorem State.out_events (r : List Byte) : (s.out r).events = s.events := rfl
@[simp] theorem State.out_readData (r : List Byte) : (s.out r).readData = s.readData := rfl
@[simp] theorem State.out_resets (r : List Byte) : (s.out r).resets = s.resets := rfl

/-! ### `done` -/

@[simp] theorem State.done_status (b : Bool) : (s.done b).status = statusWithVok (statusWithErr s.status 0#4) b := rfl
@[simp] theorem State.done_plen (b : Bool) : (s.done b).plen = s.plen := rfl
@[simp] theorem State.done_ilen (b : Bool) : (s.done b).ilen = s.ilen := rfl
@[simp] theorem State.done_olen (b : Bool) : (s.done b).olen = s.olen := rfl
@[simp] theorem State.done_mem (b : Bool) : (s.done b).mem = s.mem := rfl
@[simp] theorem State.done_rlut (b : Bool) : (s.done b).rlut = s.rlut := rfl
@[simp] theorem State.done_rgAcc (b : Bool) : (s.done b).rgAcc = s.rgAcc := rfl
@[simp] theorem State.done_rgCnt (b : Bool) : (s.done b).rgCnt = s.rgCnt := rfl
@[simp] theorem State.done_ckC (b : Bool) : (s.done b).ckC = s.ckC := rfl
@[simp] theorem State.done_scratchSyms (b : Bool) : (s.done b).scratchSyms = s.scratchSyms := rfl
@[simp] theorem State.done_scratchBytes (b : Bool) : (s.done b).scratchBytes = s.scratchBytes := rfl
@[simp] theorem State.done_stage (b : Bool) : (s.done b).stage = s.stage := rfl
@[simp] theorem State.done_events (b : Bool) : (s.done b).events = s.events := rfl
@[simp] theorem State.done_readData (b : Bool) : (s.done b).readData = s.readData := rfl
@[simp] theorem State.done_resets (b : Bool) : (s.done b).resets = s.resets := rfl

/-! ### `raise` -/

@[simp] theorem State.raise_status (e : ErrorCode) : (s.raise e).status = statusWithVok (statusWithErr s.status e.code) false := rfl
@[simp] theorem State.raise_plen (e : ErrorCode) : (s.raise e).plen = s.plen := rfl
@[simp] theorem State.raise_ilen (e : ErrorCode) : (s.raise e).ilen = s.ilen := rfl
@[simp] theorem State.raise_olen (e : ErrorCode) : (s.raise e).olen = 0#8 := rfl
@[simp] theorem State.raise_mem (e : ErrorCode) : (s.raise e).mem = s.mem := rfl
@[simp] theorem State.raise_rlut (e : ErrorCode) : (s.raise e).rlut = s.rlut := rfl
@[simp] theorem State.raise_rgAcc (e : ErrorCode) : (s.raise e).rgAcc = s.rgAcc := rfl
@[simp] theorem State.raise_rgCnt (e : ErrorCode) : (s.raise e).rgCnt = s.rgCnt := rfl
@[simp] theorem State.raise_ckC (e : ErrorCode) : (s.raise e).ckC = s.ckC := rfl
@[simp] theorem State.raise_scratchSyms (e : ErrorCode) : (s.raise e).scratchSyms = s.scratchSyms := rfl
@[simp] theorem State.raise_scratchBytes (e : ErrorCode) : (s.raise e).scratchBytes = s.scratchBytes := rfl
@[simp] theorem State.raise_stage (e : ErrorCode) : (s.raise e).stage = s.stage := rfl
@[simp] theorem State.raise_events (e : ErrorCode) : (s.raise e).events = s.events := rfl
@[simp] theorem State.raise_readData (e : ErrorCode) : (s.raise e).readData = s.readData := rfl
@[simp] theorem State.raise_resets (e : ErrorCode) : (s.raise e).resets = s.resets := rfl

/-! ### `reportNotReady` -/

@[simp] theorem State.reportNotReady_status : s.reportNotReady.status = statusWithErr s.status 10#4 := rfl
@[simp] theorem State.reportNotReady_plen : s.reportNotReady.plen = s.plen := rfl
@[simp] theorem State.reportNotReady_ilen : s.reportNotReady.ilen = s.ilen := rfl
@[simp] theorem State.reportNotReady_olen : s.reportNotReady.olen = s.olen := rfl
@[simp] theorem State.reportNotReady_mem : s.reportNotReady.mem = s.mem := rfl
@[simp] theorem State.reportNotReady_rlut : s.reportNotReady.rlut = s.rlut := rfl
@[simp] theorem State.reportNotReady_rgAcc : s.reportNotReady.rgAcc = s.rgAcc := rfl
@[simp] theorem State.reportNotReady_rgCnt : s.reportNotReady.rgCnt = s.rgCnt := rfl
@[simp] theorem State.reportNotReady_ckC : s.reportNotReady.ckC = s.ckC := rfl
@[simp] theorem State.reportNotReady_scratchSyms : s.reportNotReady.scratchSyms = s.scratchSyms := rfl
@[simp] theorem State.reportNotReady_scratchBytes : s.reportNotReady.scratchBytes = s.scratchBytes := rfl
@[simp] theorem State.reportNotReady_stage : s.reportNotReady.stage = s.stage := rfl
@[simp] theorem State.reportNotReady_events : s.reportNotReady.events = s.events := rfl
@[simp] theorem State.reportNotReady_readData : s.reportNotReady.readData = s.readData := rfl
@[simp] theorem State.reportNotReady_resets : s.reportNotReady.resets = s.resets := rfl

/-! ### `withRg` -/

@[simp] theorem State.withRg_status (acc : BitVec 12) (cnt : Nat) : (s.withRg acc cnt).status = s.status := rfl
@[simp] theorem State.withRg_plen (acc : BitVec 12) (cnt : Nat) : (s.withRg acc cnt).plen = s.plen := rfl
@[simp] theorem State.withRg_ilen (acc : BitVec 12) (cnt : Nat) : (s.withRg acc cnt).ilen = s.ilen := rfl
@[simp] theorem State.withRg_olen (acc : BitVec 12) (cnt : Nat) : (s.withRg acc cnt).olen = s.olen := rfl
@[simp] theorem State.withRg_mem (acc : BitVec 12) (cnt : Nat) : (s.withRg acc cnt).mem = s.mem := rfl
@[simp] theorem State.withRg_rlut (acc : BitVec 12) (cnt : Nat) : (s.withRg acc cnt).rlut = s.rlut := rfl
@[simp] theorem State.withRg_rgAcc (acc : BitVec 12) (cnt : Nat) : (s.withRg acc cnt).rgAcc = acc := rfl
@[simp] theorem State.withRg_rgCnt (acc : BitVec 12) (cnt : Nat) : (s.withRg acc cnt).rgCnt = BitVec.ofNat 4 cnt := rfl
@[simp] theorem State.withRg_ckC (acc : BitVec 12) (cnt : Nat) : (s.withRg acc cnt).ckC = s.ckC := rfl
@[simp] theorem State.withRg_scratchSyms (acc : BitVec 12) (cnt : Nat) : (s.withRg acc cnt).scratchSyms = s.scratchSyms := rfl
@[simp] theorem State.withRg_scratchBytes (acc : BitVec 12) (cnt : Nat) : (s.withRg acc cnt).scratchBytes = s.scratchBytes := rfl
@[simp] theorem State.withRg_stage (acc : BitVec 12) (cnt : Nat) : (s.withRg acc cnt).stage = s.stage := rfl
@[simp] theorem State.withRg_events (acc : BitVec 12) (cnt : Nat) : (s.withRg acc cnt).events = s.events := rfl
@[simp] theorem State.withRg_readData (acc : BitVec 12) (cnt : Nat) : (s.withRg acc cnt).readData = s.readData := rfl
@[simp] theorem State.withRg_resets (acc : BitVec 12) (cnt : Nat) : (s.withRg acc cnt).resets = s.resets := rfl

/-! ### `withCk` -/

@[simp] theorem State.withCk_status (c : CkWord) : (s.withCk c).status = s.status := rfl
@[simp] theorem State.withCk_plen (c : CkWord) : (s.withCk c).plen = s.plen := rfl
@[simp] theorem State.withCk_ilen (c : CkWord) : (s.withCk c).ilen = s.ilen := rfl
@[simp] theorem State.withCk_olen (c : CkWord) : (s.withCk c).olen = s.olen := rfl
@[simp] theorem State.withCk_mem (c : CkWord) : (s.withCk c).mem = s.mem := rfl
@[simp] theorem State.withCk_rlut (c : CkWord) : (s.withCk c).rlut = s.rlut := rfl
@[simp] theorem State.withCk_rgAcc (c : CkWord) : (s.withCk c).rgAcc = s.rgAcc := rfl
@[simp] theorem State.withCk_rgCnt (c : CkWord) : (s.withCk c).rgCnt = s.rgCnt := rfl
@[simp] theorem State.withCk_ckC (c : CkWord) : (s.withCk c).ckC = c := rfl
@[simp] theorem State.withCk_scratchSyms (c : CkWord) : (s.withCk c).scratchSyms = s.scratchSyms := rfl
@[simp] theorem State.withCk_scratchBytes (c : CkWord) : (s.withCk c).scratchBytes = s.scratchBytes := rfl
@[simp] theorem State.withCk_stage (c : CkWord) : (s.withCk c).stage = s.stage := rfl
@[simp] theorem State.withCk_events (c : CkWord) : (s.withCk c).events = s.events := rfl
@[simp] theorem State.withCk_readData (c : CkWord) : (s.withCk c).readData = s.readData := rfl
@[simp] theorem State.withCk_resets (c : CkWord) : (s.withCk c).resets = s.resets := rfl

/-! ### `withScratch` -/

@[simp] theorem State.withScratch_status (xs : List Symbol) (bs : List Byte) (n : Nat) : (s.withScratch xs bs n).status = s.status := rfl
@[simp] theorem State.withScratch_plen (xs : List Symbol) (bs : List Byte) (n : Nat) : (s.withScratch xs bs n).plen = s.plen := rfl
@[simp] theorem State.withScratch_ilen (xs : List Symbol) (bs : List Byte) (n : Nat) : (s.withScratch xs bs n).ilen = s.ilen := rfl
@[simp] theorem State.withScratch_olen (xs : List Symbol) (bs : List Byte) (n : Nat) : (s.withScratch xs bs n).olen = s.olen := rfl
@[simp] theorem State.withScratch_mem (xs : List Symbol) (bs : List Byte) (n : Nat) : (s.withScratch xs bs n).mem = s.mem := rfl
@[simp] theorem State.withScratch_rlut (xs : List Symbol) (bs : List Byte) (n : Nat) : (s.withScratch xs bs n).rlut = s.rlut := rfl
@[simp] theorem State.withScratch_rgAcc (xs : List Symbol) (bs : List Byte) (n : Nat) : (s.withScratch xs bs n).rgAcc = s.rgAcc := rfl
@[simp] theorem State.withScratch_rgCnt (xs : List Symbol) (bs : List Byte) (n : Nat) : (s.withScratch xs bs n).rgCnt = s.rgCnt := rfl
@[simp] theorem State.withScratch_ckC (xs : List Symbol) (bs : List Byte) (n : Nat) : (s.withScratch xs bs n).ckC = s.ckC := rfl
@[simp] theorem State.withScratch_scratchSyms (xs : List Symbol) (bs : List Byte) (n : Nat) : (s.withScratch xs bs n).scratchSyms = xs := rfl
@[simp] theorem State.withScratch_scratchBytes (xs : List Symbol) (bs : List Byte) (n : Nat) : (s.withScratch xs bs n).scratchBytes = bs := rfl
@[simp] theorem State.withScratch_stage (xs : List Symbol) (bs : List Byte) (n : Nat) : (s.withScratch xs bs n).stage = n := rfl
@[simp] theorem State.withScratch_events (xs : List Symbol) (bs : List Byte) (n : Nat) : (s.withScratch xs bs n).events = s.events := rfl
@[simp] theorem State.withScratch_readData (xs : List Symbol) (bs : List Byte) (n : Nat) : (s.withScratch xs bs n).readData = s.readData := rfl
@[simp] theorem State.withScratch_resets (xs : List Symbol) (bs : List Byte) (n : Nat) : (s.withScratch xs bs n).resets = s.resets := rfl

/-! ### `init` -/

@[simp] theorem State.init_status : s.init.status = statusWithReady s.status := rfl
@[simp] theorem State.init_plen : s.init.plen = s.plen := rfl
@[simp] theorem State.init_ilen : s.init.ilen = s.ilen := rfl
@[simp] theorem State.init_olen : s.init.olen = s.olen := rfl
@[simp] theorem State.init_mem : s.init.mem = s.mem := rfl
@[simp] theorem State.init_rlut : s.init.rlut = reverseTable Config.ALPHABET := rfl
@[simp] theorem State.init_rgAcc : s.init.rgAcc = s.rgAcc := rfl
@[simp] theorem State.init_rgCnt : s.init.rgCnt = s.rgCnt := rfl
@[simp] theorem State.init_ckC : s.init.ckC = s.ckC := rfl
@[simp] theorem State.init_scratchSyms : s.init.scratchSyms = s.scratchSyms := rfl
@[simp] theorem State.init_scratchBytes : s.init.scratchBytes = s.scratchBytes := rfl
@[simp] theorem State.init_stage : s.init.stage = s.stage := rfl
@[simp] theorem State.init_events : s.init.events = s.events := rfl
@[simp] theorem State.init_readData : s.init.readData = s.readData := rfl
@[simp] theorem State.init_resets : s.init.resets = s.resets := rfl

/-! ### `hostRead` -/

@[simp] theorem State.hostRead_status (a : HostAddr) : (s.hostRead a).status = s.status := rfl
@[simp] theorem State.hostRead_plen (a : HostAddr) : (s.hostRead a).plen = s.plen := rfl
@[simp] theorem State.hostRead_ilen (a : HostAddr) : (s.hostRead a).ilen = s.ilen := rfl
@[simp] theorem State.hostRead_olen (a : HostAddr) : (s.hostRead a).olen = s.olen := rfl
@[simp] theorem State.hostRead_mem (a : HostAddr) : (s.hostRead a).mem = s.mem := rfl
@[simp] theorem State.hostRead_rlut (a : HostAddr) : (s.hostRead a).rlut = s.rlut := rfl
@[simp] theorem State.hostRead_rgAcc (a : HostAddr) : (s.hostRead a).rgAcc = s.rgAcc := rfl
@[simp] theorem State.hostRead_rgCnt (a : HostAddr) : (s.hostRead a).rgCnt = s.rgCnt := rfl
@[simp] theorem State.hostRead_ckC (a : HostAddr) : (s.hostRead a).ckC = s.ckC := rfl
@[simp] theorem State.hostRead_scratchSyms (a : HostAddr) : (s.hostRead a).scratchSyms = s.scratchSyms := rfl
@[simp] theorem State.hostRead_scratchBytes (a : HostAddr) : (s.hostRead a).scratchBytes = s.scratchBytes := rfl
@[simp] theorem State.hostRead_stage (a : HostAddr) : (s.hostRead a).stage = s.stage := rfl
@[simp] theorem State.hostRead_events (a : HostAddr) : (s.hostRead a).events = s.events := rfl
@[simp] theorem State.hostRead_readData (a : HostAddr) : (s.hostRead a).readData = s.hostReadValue a := rfl
@[simp] theorem State.hostRead_resets (a : HostAddr) : (s.hostRead a).resets = s.resets := rfl

/-! ### `queueCommand` -/

@[simp] theorem State.queueCommand_status (v : Byte) : (s.queueCommand v).status = s.status := rfl
@[simp] theorem State.queueCommand_plen (v : Byte) : (s.queueCommand v).plen = s.plen := rfl
@[simp] theorem State.queueCommand_ilen (v : Byte) : (s.queueCommand v).ilen = s.ilen := rfl
@[simp] theorem State.queueCommand_olen (v : Byte) : (s.queueCommand v).olen = s.olen := rfl
@[simp] theorem State.queueCommand_mem (v : Byte) : (s.queueCommand v).mem = s.mem := rfl
@[simp] theorem State.queueCommand_rlut (v : Byte) : (s.queueCommand v).rlut = s.rlut := rfl
@[simp] theorem State.queueCommand_rgAcc (v : Byte) : (s.queueCommand v).rgAcc = s.rgAcc := rfl
@[simp] theorem State.queueCommand_rgCnt (v : Byte) : (s.queueCommand v).rgCnt = s.rgCnt := rfl
@[simp] theorem State.queueCommand_ckC (v : Byte) : (s.queueCommand v).ckC = s.ckC := rfl
@[simp] theorem State.queueCommand_scratchSyms (v : Byte) : (s.queueCommand v).scratchSyms = s.scratchSyms := rfl
@[simp] theorem State.queueCommand_scratchBytes (v : Byte) : (s.queueCommand v).scratchBytes = s.scratchBytes := rfl
@[simp] theorem State.queueCommand_stage (v : Byte) : (s.queueCommand v).stage = s.stage := rfl
@[simp] theorem State.queueCommand_events (v : Byte) : (s.queueCommand v).events = .hostWrite Config.cmdAddr v :: s.events := rfl
@[simp] theorem State.queueCommand_readData (v : Byte) : (s.queueCommand v).readData = s.readData := rfl
@[simp] theorem State.queueCommand_resets (v : Byte) : (s.queueCommand v).resets = s.resets := rfl

end Sys2Proof.Machine
end

