-- ==== Sys2Proof/Laws/Flags.lean ====
section
/-! SUPPORT. The fields of a status word after each of its writes, and of the state after each exit of a command. -/

namespace Sys2Proof.Machine

/-! ### A status word's fields after a write: all words, by computation -/

theorem statusWithErr_fields : ∀ (st : BitVec 8) (e : BitVec 4),
    (statusWithErr st e).extractLsb' 4 4 = e ∧ (statusWithErr st e).getLsbD 0 = st.getLsbD 0 ∧
      (statusWithErr st e).getLsbD 1 = st.getLsbD 1 ∧ (statusWithErr st e).extractLsb' 2 2 = st.extractLsb' 2 2 := by
  decide +kernel

theorem statusWithVok_fields : ∀ (st : BitVec 8) (b : Bool),
    (statusWithVok st b).extractLsb' 4 4 = st.extractLsb' 4 4 ∧ (statusWithVok st b).getLsbD 0 = st.getLsbD 0 ∧
      (statusWithVok st b).getLsbD 1 = b ∧ (statusWithVok st b).extractLsb' 2 2 = st.extractLsb' 2 2 := by
  decide +kernel

theorem statusWithReady_fields : ∀ st : BitVec 8,
    (statusWithReady st).extractLsb' 4 4 = st.extractLsb' 4 4 ∧ (statusWithReady st).getLsbD 0 = true ∧
      (statusWithReady st).getLsbD 1 = st.getLsbD 1 ∧
      (statusWithReady st).extractLsb' 2 2 = st.extractLsb' 2 2 := by
  decide +kernel

/-! ### The state's flags after a write of one of them -/

section
variable (s : State)

@[simp] theorem State.withErr_err (e : BitVec 4) : (s.withErr e).err = e := (statusWithErr_fields s.status e).1
@[simp] theorem State.withErr_ready (e : BitVec 4) : (s.withErr e).ready = s.ready :=
  (statusWithErr_fields s.status e).2.1
@[simp] theorem State.withErr_vok (e : BitVec 4) : (s.withErr e).vok = s.vok :=
  (statusWithErr_fields s.status e).2.2.1
@[simp] theorem State.withErr_reserved (e : BitVec 4) : (s.withErr e).statusReserved = s.statusReserved :=
  (statusWithErr_fields s.status e).2.2.2

@[simp] theorem State.withVok_err (b : Bool) : (s.withVok b).err = s.err := (statusWithVok_fields s.status b).1
@[simp] theorem State.withVok_ready (b : Bool) : (s.withVok b).ready = s.ready := (statusWithVok_fields s.status b).2.1
@[simp] theorem State.withVok_vok (b : Bool) : (s.withVok b).vok = b := (statusWithVok_fields s.status b).2.2.1
@[simp] theorem State.withVok_reserved (b : Bool) : (s.withVok b).statusReserved = s.statusReserved :=
  (statusWithVok_fields s.status b).2.2.2

@[simp] theorem State.withReady_err : s.withReady.err = s.err := (statusWithReady_fields s.status).1
@[simp] theorem State.withReady_ready : s.withReady.ready = true := (statusWithReady_fields s.status).2.1
@[simp] theorem State.withReady_vok : s.withReady.vok = s.vok := (statusWithReady_fields s.status).2.2.1
@[simp] theorem State.withReady_reserved : s.withReady.statusReserved = s.statusReserved :=
  (statusWithReady_fields s.status).2.2.2

/-! ### The state's flags after an exit of a command -/

@[simp] theorem State.done_err (b : Bool) : (s.done b).err = 0#4 := by simp [State.done]
@[simp] theorem State.done_vok (b : Bool) : (s.done b).vok = b := by simp [State.done]
@[simp] theorem State.done_ready (b : Bool) : (s.done b).ready = s.ready := by simp [State.done]
@[simp] theorem State.done_reserved (b : Bool) : (s.done b).statusReserved = s.statusReserved := by simp [State.done]

@[simp] theorem State.raise_err (e : ErrorCode) : (s.raise e).err = e.code :=
  ((s.withErr e.code).withVok_err false).trans (s.withErr_err e.code)
@[simp] theorem State.raise_vok (e : ErrorCode) : (s.raise e).vok = false := (s.withErr e.code).withVok_vok false
@[simp] theorem State.raise_ready (e : ErrorCode) : (s.raise e).ready = s.ready :=
  ((s.withErr e.code).withVok_ready false).trans (s.withErr_ready e.code)
@[simp] theorem State.raise_reserved (e : ErrorCode) : (s.raise e).statusReserved = s.statusReserved :=
  ((s.withErr e.code).withVok_reserved false).trans (s.withErr_reserved e.code)

@[simp] theorem State.reportNotReady_err : s.reportNotReady.err = 10#4 := s.withErr_err _
@[simp] theorem State.reportNotReady_vok : s.reportNotReady.vok = s.vok := s.withErr_vok _
@[simp] theorem State.reportNotReady_ready : s.reportNotReady.ready = s.ready := s.withErr_ready _
@[simp] theorem State.reportNotReady_reserved : s.reportNotReady.statusReserved = s.statusReserved :=
  s.withErr_reserved _

@[simp] theorem State.init_err : s.init.err = s.err := withReady_err _
@[simp] theorem State.init_vok : s.init.vok = s.vok := withReady_vok _
@[simp] theorem State.init_ready : s.init.ready = true := withReady_ready _
@[simp] theorem State.init_reserved : s.init.statusReserved = s.statusReserved := withReady_reserved _

/-! ### Updates that leave `STATUS` alone leave its fields alone -/

@[simp] theorem State.out_ready (r : List Byte) : (s.out r).ready = s.ready := rfl
@[simp] theorem State.out_err (r : List Byte) : (s.out r).err = s.err := rfl
@[simp] theorem State.out_vok (r : List Byte) : (s.out r).vok = s.vok := rfl
@[simp] theorem State.out_reserved (r : List Byte) : (s.out r).statusReserved = s.statusReserved := rfl
@[simp] theorem State.withRg_ready (acc : BitVec 12) (n : Nat) : (s.withRg acc n).ready = s.ready := rfl
@[simp] theorem State.withRg_reserved (acc : BitVec 12) (n : Nat) :
    (s.withRg acc n).statusReserved = s.statusReserved := rfl
@[simp] theorem State.withCk_ready (c : CkWord) : (s.withCk c).ready = s.ready := rfl
@[simp] theorem State.withCk_reserved (c : CkWord) : (s.withCk c).statusReserved = s.statusReserved := rfl
@[simp] theorem State.withScratch_ready (xs : List Symbol) (bs : List Byte) (n : Nat) :
    (s.withScratch xs bs n).ready = s.ready := rfl
@[simp] theorem State.withScratch_reserved (xs : List Symbol) (bs : List Byte) (n : Nat) :
    (s.withScratch xs bs n).statusReserved = s.statusReserved := rfl
@[simp] theorem State.memWrite_ready (a : Nat) (v : Byte) : (s.memWrite a v).ready = s.ready := rfl
@[simp] theorem State.memWrite_err (a : Nat) (v : Byte) : (s.memWrite a v).err = s.err := rfl
@[simp] theorem State.memWrite_vok (a : Nat) (v : Byte) : (s.memWrite a v).vok = s.vok := rfl

end

/-- Every error's code is one that `ERR` may hold, and none is the code 0. -/
theorem ErrorCode.code_legal (e : ErrorCode) : errLegal e.code = true ∧ e.code ≠ 0#4 := by cases e <;> decide

/-- Two errors with one code are the same error. -/
theorem ErrorCode.code_inj {e e' : ErrorCode} (h : e.code = e'.code) : e = e' := by
  cases e <;> cases e' <;> first | rfl | exact absurd h (by decide)

end Sys2Proof.Machine
end

