-- ==== Sys2Proof/Laws/Memory.lean ====
section
/-! SUPPORT. Memory: a read after a write, and the canonical form, which every memory operation keeps. -/

namespace Sys2Proof.Machine

/-- A read after a write: the written value at its own address, the old one elsewhere. -/
theorem Memory.read_write (m : List Host.Cell) (a b : Nat) (v : Byte) :
    Memory.read (Memory.write m a v) b = if b = a then some v else Memory.read m b := by
  induction m with
  | nil => simp [Memory.write, Memory.read, eq_comm]
  | cons c cs ih =>
    unfold Memory.write
    split
    · by_cases h : b = a <;> simp_all [Memory.read, eq_comm]
    · split
      · by_cases h : b = a <;> simp_all [Memory.read, eq_comm]
      · by_cases h : c.1 = b
        · simp only [Memory.read, h, if_true]
          rw [if_neg (by omega)]
        · simp [Memory.read, h, ih]

/-- A read after a run of writes: the run's item inside it, the old value outside. -/
theorem Memory.read_writeRun (m : List Host.Cell) (a : Nat) (r : List Byte) (b : Nat) :
    Memory.read (Memory.writeRun m a r) b =
      if a ≤ b ∧ b < a + r.length then r[b - a]? else Memory.read m b := by
  induction r generalizing m a with
  | nil => simp [Memory.writeRun, show ¬(a ≤ b ∧ b < a) by omega]
  | cons v vs ih =>
    rw [Memory.writeRun, ih, Memory.read_write]
    by_cases h1 : a + 1 ≤ b ∧ b < a + 1 + vs.length
    · rw [if_pos h1, if_pos (by simp only [List.length_cons]; omega), show b - a = b - (a + 1) + 1 by omega]
      simp
    · by_cases h2 : b = a
      · subst h2
        simp
      · rw [if_neg h1, if_neg h2, if_neg (by simp only [List.length_cons]; omega)]

/-- The items of a run, read back. -/
theorem Memory.read_writeRun_item (m : List Host.Cell) (a : Nat) (r : List Byte) (k : Nat) (h : k < r.length) :
    Memory.read (Memory.writeRun m a r) (a + k) = some r[k] := by
  rw [Memory.read_writeRun, if_pos (by omega)]
  simp [h]

/-- An address outside a run keeps its item. -/
theorem Memory.read_writeRun_other (m : List Host.Cell) (a : Nat) (r : List Byte) (b : Nat)
    (h : ∀ k, k < r.length → b ≠ a + k) : Memory.read (Memory.writeRun m a r) b = Memory.read m b := by
  rw [Memory.read_writeRun, if_neg]
  rintro ⟨h1, h2⟩
  exact h (b - a) (by omega) (by omega)

/-! ### The canonical form -/

theorem Memory.rises_write (m : List Host.Cell) (lo a : Nat) (v : Byte) (hlo : lo ≤ a)
    (h : Memory.rises lo m = true) : Memory.rises lo (Memory.write m a v) = true := by
  induction m generalizing lo with
  | nil => simpa [Memory.write, Memory.rises] using hlo
  | cons c cs ih =>
    simp only [Memory.rises, Bool.and_eq_true, decide_eq_true_eq] at h
    unfold Memory.write
    split
    · simp only [Memory.rises, Bool.and_eq_true, decide_eq_true_eq]
      exact ⟨hlo, by omega, h.2⟩
    · split
      · rename_i h1 h2
        simp only [Memory.rises, Bool.and_eq_true, decide_eq_true_eq]
        exact ⟨hlo, h2 ▸ h.2⟩
      · simp only [Memory.rises, Bool.and_eq_true, decide_eq_true_eq]
        exact ⟨h.1, ih _ (by omega) h.2⟩

theorem Memory.all_write (p : Nat → Bool) (m : List Host.Cell) (a : Nat) (v : Byte) (ha : p a = true)
    (h : (m.all fun c => p c.1) = true) : ((Memory.write m a v).all fun c => p c.1) = true := by
  induction m with
  | nil => simpa [Memory.write] using ha
  | cons c cs ih =>
    simp only [List.all_cons, Bool.and_eq_true] at h
    unfold Memory.write
    split
    · simp only [List.all_cons, Bool.and_eq_true]
      exact ⟨ha, h⟩
    · split
      · simp only [List.all_cons, Bool.and_eq_true]
        exact ⟨ha, h.2⟩
      · simp only [List.all_cons, Bool.and_eq_true]
        exact ⟨h.1, ih h.2⟩

/-- A write to a buffer address keeps the canonical form. -/
theorem Memory.wf_write {m : List Host.Cell} {a : Nat} (v : Byte) (ha : isBufferAddr a = true)
    (h : Memory.wf m = true) : Memory.wf (Memory.write m a v) = true := by
  simp only [Memory.wf, Bool.and_eq_true] at h ⊢
  exact ⟨Memory.rises_write m 0 a v (Nat.zero_le a) h.1, Memory.all_write _ m a v ha h.2⟩

/-- A run of writes to buffer addresses keeps the canonical form. -/
theorem Memory.wf_writeRun {m : List Host.Cell} {a : Nat} (r : List Byte)
    (ha : ∀ k, k < r.length → isBufferAddr (a + k) = true) (h : Memory.wf m = true) :
    Memory.wf (Memory.writeRun m a r) = true := by
  induction r generalizing m a with
  | nil => exact h
  | cons v vs ih =>
    refine ih (fun k hk => ?_) (Memory.wf_write v (ha 0 (by simp)) h)
    rw [show a + 1 + k = a + (k + 1) by omega]
    exact ha (k + 1) (by simpa using hk)

/-- `OBUF[k]` with `k < OCAP` is at a buffer address. -/
theorem isBufferAddr_obuf {k : Nat} (h : k < Config.OCAP) : isBufferAddr (Config.obufBase + k) = true := by
  simp only [Config.OCAP] at h
  simp only [isBufferAddr, Bool.or_eq_true, Bool.and_eq_true, decide_eq_true_eq]
  simp only [Config.pfxBase, Config.PCAP, Config.ibufBase, Config.ICAP, Config.obufBase, Config.OCAP]
  omega

/-- `PFX[k]` with `k < PCAP` is at a buffer address. -/
theorem isBufferAddr_pfx {k : Nat} (h : k < Config.PCAP) : isBufferAddr (Config.pfxBase + k) = true := by
  simp only [Config.PCAP] at h
  simp only [isBufferAddr, Bool.or_eq_true, Bool.and_eq_true, decide_eq_true_eq]
  simp only [Config.pfxBase, Config.PCAP, Config.ibufBase, Config.ICAP, Config.obufBase, Config.OCAP]
  omega

/-- `IBUF[k]` with `k < ICAP` is at a buffer address. -/
theorem isBufferAddr_ibuf {k : Nat} (h : k < Config.ICAP) : isBufferAddr (Config.ibufBase + k) = true := by
  simp only [Config.ICAP] at h
  simp only [isBufferAddr, Bool.or_eq_true, Bool.and_eq_true, decide_eq_true_eq]
  simp only [Config.pfxBase, Config.PCAP, Config.ibufBase, Config.ICAP, Config.obufBase, Config.OCAP]
  omega

/-- The reset state's memory is in canonical form. -/
theorem reset_mem_wf : Memory.wf State.reset.mem = true := rfl

/-! ### The executor's and the host's reads -/

/-- Two states with the same memory and reset count read the same item at every address. -/
theorem State.memRead_congr {s t : State} (hm : t.mem = s.mem) (hr : t.resets = s.resets) (a : Nat) :
    t.memRead a = s.memRead a := by simp [State.memRead, hm, hr]

theorem State.memRead_memWrite (s : State) (a b : Nat) (v : Byte) :
    (s.memWrite a v).memRead b = if b = a then v else s.memRead b := by
  simp only [State.memRead, State.memWrite_mem, State.memWrite_resets, Memory.read_write]
  split <;> simp

/-- The items of `out(r)` are in `OBUF`. -/
theorem State.memRead_out_item (s : State) (r : List Byte) (k : Nat) (h : k < r.length) :
    (s.out r).memRead (Config.obufBase + k) = r[k] := by
  simp [State.memRead, Memory.read_writeRun_item, h]

/-- `out(r)` leaves every other item alone. -/
theorem State.memRead_out_other (s : State) (r : List Byte) (a : Nat)
    (h : ∀ k, k < r.length → a ≠ Config.obufBase + k) : (s.out r).memRead a = s.memRead a := by
  simp [State.memRead, Memory.read_writeRun_other _ _ _ _ h]

@[simp] theorem State.memRead_done (s : State) (b : Bool) (a : Nat) : (s.done b).memRead a = s.memRead a := rfl
@[simp] theorem State.memRead_raise (s : State) (e : ErrorCode) (a : Nat) : (s.raise e).memRead a = s.memRead a := rfl
@[simp] theorem State.memRead_reportNotReady (s : State) (a : Nat) : s.reportNotReady.memRead a = s.memRead a := rfl
@[simp] theorem State.memRead_withRg (s : State) (acc : BitVec 12) (n a : Nat) :
    (s.withRg acc n).memRead a = s.memRead a := rfl
@[simp] theorem State.memRead_withCk (s : State) (c : CkWord) (a : Nat) : (s.withCk c).memRead a = s.memRead a := rfl
@[simp] theorem State.memRead_withScratch (s : State) (xs : List Symbol) (bs : List Byte) (n a : Nat) :
    (s.withScratch xs bs n).memRead a = s.memRead a := rfl

@[simp] theorem State.items_length (s : State) (base n : Nat) : (s.items base n).length = n := by simp [State.items]

@[simp] theorem State.inputItems_length (s : State) : s.inputItems.length = s.ilen.toNat := by simp [State.inputItems]

@[simp] theorem State.prefixItems_length (s : State) : s.prefixItems.length = s.plen.toNat := by simp [State.prefixItems]

@[simp] theorem State.inputSymbols_length (s : State) : s.inputSymbols.length = s.ilen.toNat := by
  simp [State.inputSymbols]

theorem State.getElem_items (s : State) (base n k : Nat) (h : k < n) :
    (s.items base n)[k]'(by simpa using h) = s.memRead (base + k) := by simp [State.items]

end Sys2Proof.Machine
end

