-- ==== Sys2Proof/Laws/Ops.lean ====
section
/-! SUPPORT. What each shared operation of a command can do: the common steps and the three exits. -/

namespace Sys2Proof.Machine

/-! ### The common steps -/

section
variable {s t : State} {bad : Bool} {body : Except ErrorCode State}

theorem command_notReady (h : s.ready = false) : command s bad body = .next s.reportNotReady := by
  simp [command, h]

theorem command_bad (h : s.ready = true) (hb : bad = true) : command s bad body = .next (s.raise .badOperand) := by
  simp [command, h, hb]

theorem command_error {e : ErrorCode} (h : s.ready = true) (hb : bad = false) (he : body = .error e) :
    command s bad body = .next (s.raise e) := by simp [command, h, hb, he]

theorem command_ok {u : State} (h : s.ready = true) (hb : bad = false) (hu : body = .ok u) :
    command s bad body = .next u := by simp [command, h, hb, hu]

/-- All that a command can answer: one of four next states. -/
theorem command_cases (h : command s bad body = .next t) :
    (s.ready = false ∧ t = s.reportNotReady) ∨
    (s.ready = true ∧ bad = true ∧ t = s.raise .badOperand) ∨
    (s.ready = true ∧ bad = false ∧ ∃ e, body = .error e ∧ t = s.raise e) ∨
    (s.ready = true ∧ bad = false ∧ body = .ok t) := by
  cases hr : s.ready with
  | false => rw [command_notReady hr] at h; cases h; exact .inl ⟨rfl, rfl⟩
  | true =>
    cases bad with
    | true => rw [command_bad hr rfl] at h; cases h; exact .inr (.inl ⟨rfl, rfl, rfl⟩)
    | false =>
      cases hb : body with
      | error e => rw [command_error hr rfl hb] at h; cases h; exact .inr (.inr (.inl ⟨rfl, rfl, e, rfl, rfl⟩))
      | ok u => rw [command_ok hr rfl hb] at h; cases h; exact .inr (.inr (.inr ⟨rfl, rfl, rfl⟩))

/-- A command always answers a next state. -/
theorem command_next (s : State) (bad : Bool) (body : Except ErrorCode State) : ∃ t, command s bad body = .next t := by
  unfold command
  split
  · split
    · exact ⟨_, rfl⟩
    · split <;> exact ⟨_, rfl⟩
  · exact ⟨_, rfl⟩

end

/-! ### What is kept -/

theorem KeepsInputs.refl (s : State) : KeepsInputs s s := ⟨rfl, rfl, rfl, rfl, rfl, rfl, rfl, rfl, fun _ _ => rfl⟩

theorem KeepsInputs.trans {s t u : State} (h : KeepsInputs s t) (h' : KeepsInputs t u) : KeepsInputs s u where
  plen := h'.plen.trans h.plen
  ilen := h'.ilen.trans h.ilen
  rlut := h'.rlut.trans h.rlut
  ready := h'.ready.trans h.ready
  reserved := h'.reserved.trans h.reserved
  events := h'.events.trans h.events
  readData := h'.readData.trans h.readData
  resets := h'.resets.trans h.resets
  belowObuf a ha := (h'.belowObuf a ha).trans (h.belowObuf a ha)

theorem keepsInputs_withRg (s : State) (acc : BitVec 12) (n : Nat) : KeepsInputs s (s.withRg acc n) :=
  ⟨rfl, rfl, rfl, rfl, rfl, rfl, rfl, rfl, fun _ _ => rfl⟩

theorem keepsInputs_withCk (s : State) (c : CkWord) : KeepsInputs s (s.withCk c) :=
  ⟨rfl, rfl, rfl, rfl, rfl, rfl, rfl, rfl, fun _ _ => rfl⟩

theorem keepsInputs_withScratch (s : State) (xs : List Symbol) (bs : List Byte) (n : Nat) :
    KeepsInputs s (s.withScratch xs bs n) := ⟨rfl, rfl, rfl, rfl, rfl, rfl, rfl, rfl, fun _ _ => rfl⟩

theorem keepsInputs_done (s : State) (b : Bool) : KeepsInputs s (s.done b) :=
  ⟨rfl, rfl, rfl, s.done_ready b, s.done_reserved b, rfl, rfl, rfl, fun _ _ => rfl⟩

theorem keepsInputs_out (s : State) (r : List Byte) : KeepsInputs s (s.out r) where
  plen := rfl
  ilen := rfl
  rlut := rfl
  ready := rfl
  reserved := rfl
  events := rfl
  readData := rfl
  resets := rfl
  belowObuf a ha := s.memRead_out_other r a fun k _ => by omega

/-- States with the same inputs have the same operands. -/
theorem KeepsInputs.items {s t : State} (h : KeepsInputs s t) {base n : Nat} (hb : base + n ≤ Config.obufBase) :
    t.items base n = s.items base n := by
  refine List.map_congr_left fun j hj => h.belowObuf _ ?_
  have := List.mem_range.1 hj
  omega

/-! ### The exits -/

theorem reportNotReady_isNotReady (s : State) : IsNotReady s s.reportNotReady where
  err := s.reportNotReady_err
  vokIs := s.reportNotReady_vok
  olen := rfl
  items _ := rfl
  keeps := ⟨rfl, rfl, rfl, s.reportNotReady_ready, s.reportNotReady_reserved, rfl, rfl, rfl, fun _ _ => rfl⟩
  rg := ⟨rfl, rfl⟩
  ck := rfl
  scratch := ⟨rfl, rfl, rfl⟩

theorem raise_failsWith (s : State) (e : ErrorCode) : FailsWith s (s.raise e) e where
  err := s.raise_err e
  vokIs := s.raise_vok e
  olen := rfl
  items _ := rfl
  keeps := ⟨rfl, rfl, rfl, s.raise_ready e, s.raise_reserved e, rfl, rfl, rfl, fun _ _ => rfl⟩
  rg := ⟨rfl, rfl⟩
  ck := rfl
  scratch := ⟨rfl, rfl, rfl⟩

/-- The success exit, from a state that has the inputs and the memory of the state before the command. -/
theorem out_done_succeedsWith {s u : State} {r : List Byte} {b : Bool} (hu : KeepsInputs s u)
    (hm : ∀ a, u.memRead a = s.memRead a) (hr : r.length ≤ Config.OCAP) :
    SucceedsWith s ((u.out r).done b) r b where
  err := State.done_err _ b
  vokIs := State.done_vok _ b
  olen := by
    simp only [Config.OCAP] at hr
    show (BitVec.ofNat 8 r.length).toNat = _
    simp only [BitVec.toNat_ofNat]
    omega
  items k h := u.memRead_out_item r k h
  others a h := (u.memRead_out_other r a h).trans (hm a)
  keeps := (hu.trans (keepsInputs_out u r)).trans (keepsInputs_done _ b)

end Sys2Proof.Machine
end

