-- ==== Sys2Proof/Laws/Operands.lean ====
section
/-! SUPPORT. The operand checks as the rules speak of them (60_exceptions.md R201). -/

namespace Sys2Proof.Machine

theorem isSymbolItem_iff (v : Byte) : isSymbolItem v = true ↔ v.extractLsb' 5 3 = 0#3 := by simp [isSymbolItem]

/-- The item test of R201 fails exactly if every item is a symbol item. -/
theorem badSymbolItem_eq_false_iff (s : State) : s.badSymbolItem = false ↔ SymbolInput s := by
  simp only [State.badSymbolItem, List.any_eq_false, State.inputItems, State.items, List.mem_map, List.mem_range,
    Bool.not_eq_true', Bool.not_eq_false, SymbolInput]
  constructor
  · intro h j hj
    exact (isSymbolItem_iff _).1 (h _ ⟨j, hj, rfl⟩)
  · rintro h v ⟨j, hj, rfl⟩
    exact (isSymbolItem_iff _).2 (h j hj)

theorem ilenOver_eq_false_iff (s : State) : s.ilenOver = false ↔ s.ilen.toNat ≤ Config.ICAP := by
  simp [State.ilenOver]

theorem plenOver_eq_false_iff (s : State) : s.plenOver = false ↔ s.plen.toNat ≤ Config.PCAP := by
  simp [State.plenOver]

theorem outOver_eq_false_iff (n : Nat) : outOver n = false ↔ n ≤ Config.OCAP := by simp [outOver]

/-- The symbol of an item is its bits 4:0, written either way. -/
theorem symbolOfItem_eq (v : Byte) : symbolOfItem v = v.extractLsb' 0 5 := by
  ext i hi
  simp [symbolOfItem]

/-- A symbol put in an item and taken out again. -/
@[simp] theorem symbolOfItem_itemOfSymbol (x : Symbol) : symbolOfItem (itemOfSymbol x) = x := by
  ext i hi
  simp [symbolOfItem, itemOfSymbol]

end Sys2Proof.Machine
end

