-- ==== Sys2Proof/Laws/PerInstr.lean ====
section
/-! SUPPORT. Facts about every command as syntax, one lemma per constructor. -/

namespace Sys2Proof.Laws.WordRoundTrip

/-- The command is well formed, its word is its fields put together, and the word's fields are the command's. -/
def Statement (i : Instr) : Prop :=
  i.wf = true ∧ encode i = i.fields.toWord ∧ fieldsOfWord (encode i) = i.fields

theorem aEnc : Statement .aEnc := ⟨rfl, rfl, rfl⟩
theorem aDec : Statement .aDec := ⟨rfl, rfl, rfl⟩
theorem rg85 (pad : Bool) : Statement (.rg85 pad) := by cases pad <;> exact ⟨rfl, rfl, rfl⟩
theorem rg58 (pad : Bool) : Statement (.rg58 pad) := by cases pad <;> exact ⟨rfl, rfl, rfl⟩
theorem ckGen : Statement .ckGen := ⟨rfl, rfl, rfl⟩
theorem ckVfy : Statement .ckVfy := ⟨rfl, rfl, rfl⟩
theorem encode (nopfx : Bool) : Statement (.encode nopfx) := by cases nopfx <;> exact ⟨rfl, rfl, rfl⟩
theorem decode : Statement .decode := ⟨rfl, rfl, rfl⟩

end Sys2Proof.Laws.WordRoundTrip
end

