-- ==== Sys2Proof/Laws/Regroup.lean ====
section
/-! SUPPORT. The regrouper's counts (42_bit_regrouper.md R122). -/

namespace Sys2Proof.Machine

variable {fw tw : Nat}

/-- The loop of emissions leaves the accumulator alone, emits `cnt / tw` groups and leaves the count `cnt % tw`. -/
theorem rgEmit_spec (htw : 0 < tw) (fuel : Nat) (r : RgRegs fw tw) (h : r.cnt ≤ fuel) :
    (rgEmit fuel r).regs.acc = r.acc ∧ (rgEmit fuel r).groups.length = r.cnt / tw ∧
      (rgEmit fuel r).regs.cnt = r.cnt % tw := by
  induction fuel generalizing r with
  | zero =>
    have h0 : r.cnt = 0 := by omega
    simp [rgEmit, h0]
  | succ fuel ih =>
    unfold rgEmit
    split
    · rename_i hle
      obtain ⟨ha, hg, hc⟩ := ih ⟨r.acc, r.cnt - tw⟩ (by show r.cnt - tw ≤ fuel; omega)
      refine ⟨ha, ?_, ?_⟩
      · show (rgEmit fuel _).groups.length + 1 = _
        rw [hg, Nat.div_eq_sub_div htw hle]
      · show (rgEmit fuel _).regs.cnt = _
        rw [hc, Nat.mod_eq_sub_mod hle]
    · rename_i hlt
      have hlt' : r.cnt < tw := Nat.lt_of_not_le hlt
      exact ⟨rfl, (Nat.div_eq_of_lt hlt').symm, (Nat.mod_eq_of_lt hlt').symm⟩

/-- Over a whole input, the loop emits `B / tw` groups and leaves `B % tw` bits waiting, `B` being the number of bits that
were waiting or came in. -/
theorem rgLoop_spec (htw : 0 < tw) (r : RgRegs fw tw) (gs : List (BitVec fw)) (h : r.cnt < tw) :
    (rgLoop r gs).groups.length = (r.cnt + gs.length * fw) / tw ∧
      (rgLoop r gs).regs.cnt = (r.cnt + gs.length * fw) % tw := by
  induction gs generalizing r with
  | nil => simp [rgLoop, Nat.div_eq_of_lt h, Nat.mod_eq_of_lt h]
  | cons g gs ih =>
    obtain ⟨-, hg, hc⟩ := rgEmit_spec htw (rgAbsorb r g).cnt (rgAbsorb r g) (Nat.le_refl _)
    have hlt : (rgEmit (rgAbsorb r g).cnt (rgAbsorb r g)).regs.cnt < tw := hc ▸ Nat.mod_lt _ htw
    obtain ⟨ig, ic⟩ := ih _ hlt
    have hsum : r.cnt + (gs.length + 1) * fw = r.cnt + fw + gs.length * fw := by rw [Nat.add_mul]; omega
    have hcnt : (rgAbsorb r g).cnt = r.cnt + fw := rfl
    have hdm := Nat.div_add_mod (r.cnt + fw) tw
    constructor
    · show ((rgEmit _ _).groups ++ (rgLoop _ gs).groups).length = _
      rw [List.length_append, hg, ig, hc, List.length_cons, hsum, hcnt]
      conv_rhs => rw [← hdm, Nat.add_assoc, Nat.mul_add_div htw]
    · show (rgLoop _ gs).regs.cnt = _
      rw [ic, hc, List.length_cons, hsum, hcnt, Nat.mod_add_mod]

/-- The number of groups of a successful `regroup` (R122). -/
theorem regroup_length (htw : 0 < tw) {pad : Bool} {gs : List (BitVec fw)} {r : Regrouped fw tw}
    (h : regroup fw tw pad gs = .ok r) :
    r.groups.length = (if pad then (gs.length * fw + (tw - 1)) / tw else gs.length * fw / tw) := by
  obtain ⟨hg, hc⟩ := rgLoop_spec (fw := fw) htw ⟨0, 0⟩ gs htw
  simp only [Nat.zero_add] at hg hc
  have hdm := Nat.div_add_mod (gs.length * fw) tw
  have hlt := Nat.mod_lt (gs.length * fw) htw
  cases pad with
  | true =>
    simp only [regroup, if_true] at h ⊢
    split at h <;> cases h
    · rename_i hpos
      rw [hc] at hpos
      simp only [List.length_append, List.length_cons, List.length_nil, hg]
      conv_rhs => rw [← hdm, Nat.add_assoc, Nat.mul_add_div htw]
      congr 1
      exact (Nat.div_eq_of_lt_le (by omega) (by omega)).symm
    · rename_i hpos
      rw [hc] at hpos
      rw [hg]
      conv_rhs => rw [← hdm, Nat.add_assoc, Nat.mul_add_div htw]
      rw [Nat.div_eq_of_lt (a := _ + (tw - 1)) (by omega)]
      rfl
  | false =>
    simp only [regroup, Bool.false_eq_true, if_false] at h ⊢
    split at h
    · cases h
    · split at h <;> cases h
      exact hg

/-- With padding `regroup` does not fail (R128). -/
theorem regroup_pad_ok (fw tw : Nat) (gs : List (BitVec fw)) : ∃ r, regroup fw tw true gs = .ok r := by
  simp only [regroup, if_true]
  split <;> exact ⟨_, rfl⟩

/-- The only error of `regroup` is `InvalidPadding`. -/
theorem regroup_error {pad : Bool} {gs : List (BitVec fw)} {e : ErrorCode} (h : regroup fw tw pad gs = .error e) :
    pad = false ∧ e = .invalidPadding := by
  cases pad with
  | true => obtain ⟨r, hr⟩ := regroup_pad_ok fw tw gs; rw [hr] at h; cases h
  | false =>
    simp only [regroup, Bool.false_eq_true, if_false] at h
    split at h
    · cases h; exact ⟨rfl, rfl⟩
    · split at h <;> cases h
      exact ⟨rfl, rfl⟩

end Sys2Proof.Machine
end

