-- ==== Sys2Proof/Tests/Slice0.lean ====
section
/-! SUPPORT. The model's own tests: words written out from 30_encoding.md R71 and R72, vectors of 95_test_vectors.md (one
step each, at most two per command), and for every statement with hypotheses a witness that meets them. -/

-- Each test is checked by the kernel in turn: waiting in parallel costs a thread for each.
set_option Elab.async false

namespace Sys2Proof.Tests

open Sys2Proof Sys2Proof.Machine

/-! ### Helpers -/

/-- Items from numbers. -/
def nums (l : List Nat) : List Byte := l.map (BitVec.ofNat 8)

/-- A ready block, its table built, with a prefix and an input loaded. -/
def loaded (p i : List Byte) : State :=
  { State.reset with
    status := 0x01#8
    plen := BitVec.ofNat 8 p.length
    ilen := BitVec.ofNat 8 i.length
    mem := Memory.writeRun (Memory.writeRun [] Config.pfxBase p) Config.ibufBase i
    rlut := reverseTable Config.ALPHABET }

/-- The next state of an outcome, if it is one. -/
def nextOf : Host.Outcome State Fault Refusal → Option State
  | .next t => some t
  | .fault _ => none
  | .refused _ => none

/-- What the host sees after a command: `STATUS`, `OLEN` and the result. -/
def seen (i : Instr) (s : State) : Option (BitVec 8 × BitVec 8 × List Byte) :=
  (nextOf (exec i s)).map fun t => (t.status, t.olen, t.outputItems)

theorem next_of_any {o : Host.Outcome State Fault Refusal} {p : State → Bool} (h : (nextOf o).any p = true) :
    ∃ t, o = .next t ∧ p t = true := by
  cases o with
  | next t => exact ⟨t, rfl, by simpa [nextOf] using h⟩
  | fault f => cases h
  | refused r => cases h

theorem symbolInput_of {s : State} (h : s.badSymbolItem = false) : SymbolInput s := (badSymbolItem_eq_false_iff s).1 h

/-- `bitcoincash`. -/
def bitcoincash : List Byte := nums [0x62, 0x69, 0x74, 0x63, 0x6F, 0x69, 0x6E, 0x63, 0x61, 0x73, 0x68]

/-- `bchtest`. -/
def bchtest : List Byte := nums [0x62, 0x63, 0x68, 0x74, 0x65, 0x73, 0x74]

/-- The 42 characters of V-ED-2: 34 times `q`, then `fnhks603`. -/
def zeroBody : List Byte := List.replicate 34 0x71#8 ++ nums [0x66, 0x6E, 0x68, 0x6B, 0x73, 0x36, 0x30, 0x33]

/-- The raw address of V-ED-1. -/
def zeroRaw : List Byte := List.replicate 21 0x00#8

/-! ### Well-formedness: an ill-formed term for each check -/

theorem test_wf_refuses_reserved_bits : CommandFields.illegal? ⟨1#4, false, false, 2#2⟩ = some .reservedBits := by decide
theorem test_wf_refuses_op_zero : CommandFields.illegal? ⟨0#4, false, false, 0#2⟩ = some .zeroOp := by decide
theorem test_wf_refuses_op_nine : CommandFields.illegal? ⟨9#4, false, false, 0#2⟩ = some .unassignedOp := by decide
theorem test_wf_refuses_pad_on_encode : CommandFields.illegal? ⟨7#4, true, false, 0#2⟩ = some .padNotAllowed := by decide
theorem test_wf_refuses_nopfx_on_decode : CommandFields.illegal? ⟨8#4, false, true, 0#2⟩ = some .nopfxNotAllowed := by
  decide

/-! ### Decoding: each word bit by bit from R71 and R72 (reserved, nopfx, pad, op) -/

theorem test_decode_a_enc : decode 0b00000001#8 = .ok .aEnc := rfl
theorem test_decode_a_dec : decode 0b00000010#8 = .ok .aDec := rfl
theorem test_decode_rg85 : decode 0b00000011#8 = .ok (.rg85 false) := rfl
theorem test_decode_rg85_p : decode 0b00010011#8 = .ok (.rg85 true) := rfl
theorem test_decode_rg58 : decode 0b00000100#8 = .ok (.rg58 false) := rfl
theorem test_decode_rg58_p : decode 0b00010100#8 = .ok (.rg58 true) := rfl
theorem test_decode_ck_gen : decode 0b00000101#8 = .ok .ckGen := rfl
theorem test_decode_ck_vfy : decode 0b00000110#8 = .ok .ckVfy := rfl
theorem test_decode_encode : decode 0b00000111#8 = .ok (.encode false) := rfl
theorem test_decode_encode_n : decode 0b00100111#8 = .ok (.encode true) := rfl
theorem test_decode_decode : decode 0b00001000#8 = .ok .decode := rfl

/-- V-W-4: each of these words is illegal. -/
theorem test_decode_refuses :
    ([0x00, 0x09, 0x0F, 0x17, 0x18, 0x23, 0x28, 0x37, 0x41, 0x81, 0xFF].all fun w =>
      (decodeTableWord 8 w).isNone) = true := by decide +kernel

/-! ### One step of each command: vectors of 95_test_vectors.md -/

/-- V-A-3. -/
theorem test_a_enc_four_symbols :
    seen .aEnc (loaded [] (nums [0, 1, 15, 31])) = some (0x01#8, 4#8, nums [0x71, 0x70, 0x30, 0x6C]) := by decide +kernel
/-- V-A-5. -/
theorem test_a_enc_bit_five_is_bad_operand : seen .aEnc (loaded [] (nums [0, 32])) = some (0x91#8, 0#8, []) := by
  decide +kernel
/-- R106, example. -/
theorem test_a_dec_four_characters :
    seen .aDec (loaded [] (nums [0x71, 0x70, 0x30, 0x6C])) = some (0x01#8, 4#8, nums [0, 1, 15, 31]) := by decide +kernel
/-- V-A-8. -/
theorem test_a_dec_b_is_invalid : seen .aDec (loaded [] (nums [0x71, 0x62])) = some (0x11#8, 0#8, []) := by decide +kernel
/-- V-RG-14, with the registers of its trace after the last byte. -/
theorem test_rg85_padded :
    seen (.rg85 true) (loaded [] (nums [0x00, 0x76, 0xA0])) = some (0x01#8, 5#8, nums [0, 1, 27, 10, 0]) ∧
      (nextOf (exec (.rg85 true) (loaded [] (nums [0x00, 0x76, 0xA0])))).map (fun t => (t.rgAcc, t.rgCnt)) =
        some (0x6A0#12, 4#4) := by decide +kernel
/-- V-RG-2. -/
theorem test_rg85_leftover_ones : seen (.rg85 false) (loaded [] (nums [0xFF])) = some (0x31#8, 0#8, []) := by
  decide +kernel
/-- V-RG-21, with the registers of its trace after the last symbol. -/
theorem test_rg58_padded :
    seen (.rg58 true) (loaded [] (nums [31, 28, 7])) = some (0x01#8, 2#8, nums [0xFF, 0x0E]) ∧
      (nextOf (exec (.rg58 true) (loaded [] (nums [31, 28, 7])))).map (fun t => (t.rgAcc, t.rgCnt)) =
        some (0xF87#12, 7#4) := by decide +kernel
/-- V-RG-18: oversized although all zero. -/
theorem test_rg58_oversized : seen (.rg58 false) (loaded [] (nums [0, 1, 27, 10, 0, 0])) = some (0x31#8, 0#8, []) := by
  decide +kernel
/-- V-CK-5, with the accumulator of R146's trace. -/
theorem test_ck_gen_prefix_a :
    seen .ckGen (loaded (nums [0x61]) []) = some (0x01#8, 8#8, nums [17, 6, 17, 13, 6, 28, 5, 14]) ∧
      (nextOf (exec .ckGen (loaded (nums [0x61]) []))).map (fun t => t.ckC) = some 0x89A2D370AF#40 := by decide +kernel
/-- V-CK-7, first row. -/
theorem test_ck_gen_zero_payload :
    seen .ckGen (loaded bitcoincash (List.replicate 34 0#8)) =
      some (0x01#8, 8#8, nums [9, 19, 23, 22, 16, 26, 15, 17]) := by decide +kernel
/-- V-CK-6, first row. -/
theorem test_ck_vfy_valid :
    seen .ckVfy (loaded (nums [0x61]) (nums [17, 6, 17, 13, 6, 28, 5, 14])) = some (0x03#8, 0#8, []) := by decide +kernel
/-- V-CK-6, second row: a mismatch is no error. -/
theorem test_ck_vfy_mismatch :
    seen .ckVfy (loaded (nums [0x61]) (nums [17, 6, 17, 13, 6, 28, 5, 15])) = some (0x01#8, 0#8, []) := by decide +kernel
/-- V-ED-1. -/
theorem test_encode_zero_hash :
    seen (.encode false) (loaded bitcoincash zeroRaw) =
      some (0x01#8, 54#8, bitcoincash ++ [0x3A#8] ++ zeroBody) := by decide +kernel
/-- V-ED-13: both wrong, the length wins. -/
theorem test_encode_length_before_tag :
    seen (.encode false) (loaded bitcoincash (0x01#8 :: List.replicate 19 0#8)) = some (0x51#8, 0#8, []) := by
  decide +kernel
/-- V-D-5: the text of V-PUB-1. -/
theorem test_decode_public_address :
    seen .decode (loaded bitcoincash (bitcoincash ++ [0x3A#8] ++ nums
      [0x71, 0x70, 0x6D, 0x32, 0x71, 0x73, 0x7A, 0x6E, 0x68, 0x6B, 0x73, 0x32, 0x33, 0x7A, 0x37, 0x36, 0x32, 0x39, 0x6D, 0x6D, 0x73,
        0x36, 0x73, 0x34, 0x63, 0x77, 0x65, 0x66, 0x37, 0x34, 0x76, 0x63, 0x77, 0x76, 0x79, 0x32, 0x32, 0x67, 0x64, 0x78, 0x36, 0x61])) =
      some (0x03#8, 21#8, nums [0x00, 0x76, 0xA0, 0x40, 0x53, 0xBD, 0xA0, 0xA8, 0x8B, 0xDA, 0x51, 0x77, 0xB8, 0x6A, 0x15, 0xC3, 0xB2, 0x9F, 0x55, 0x98, 0x73]) := by decide +kernel
/-- V-D-10: the text carries another prefix. -/
theorem test_decode_wrong_network :
    seen .decode (loaded bitcoincash (bchtest ++ [0x3A#8] ++ zeroBody)) = some (0x61#8, 0#8, []) := by decide +kernel

/-! ### The wrapper -/

/-- V-W-2: a command before `Init` reports `NotReady`, whatever the word. -/
theorem test_command_before_init :
    (nextOf (step { State.reset with events := [.hostWrite 0#10 0xFF#8] })).map (fun t => (t.status, t.olen)) =
      some (0xA0#8, 0#8) := by decide +kernel
/-- V-W-3: `Init` leaves `ERR`. -/
theorem test_init_leaves_err :
    (nextOf (step { State.reset with status := 0xA0#8, events := [.initialiser] })).map (fun t => t.status) =
      some 0xA1#8 := by decide +kernel
/-- V-W-8: reserved and write-only addresses read 0. -/
theorem test_reserved_reads :
    ([0x000#10, 0x005#10, 0x120#10, 0x280#10, 0x3FF#10].all fun a =>
      (loaded bitcoincash zeroRaw).hostReadValue a = 0#8) = true := by decide +kernel
/-- V-W-9: writes to read-only and reserved addresses have no effect, in any state. -/
theorem test_ignored_writes (s : State) :
    hostWrite 0x004#10 5#8 s = .next s ∧ hostWrite 0x001#10 0xFF#8 s = .next s ∧ hostWrite 0x300#10 1#8 s = .next s ∧
      hostWrite 0x005#10 1#8 s = .next s := ⟨rfl, rfl, rfl, rfl⟩
/-- A placed word runs as the very first step after reset (log 4). -/
theorem test_placed_word_runs :
    (nextOf (step (State.reset.withFetchWord 8 0x05))).map (fun t => (t.status, t.olen)) = some (0x01#8, 8#8) := by
  decide +kernel

/-! ### Witnesses: for each statement with hypotheses, states and operands that meet all of them together -/

/-- A ready block with `n` zero items as its input and `m` zero items as its prefix. -/
def zeros (m n : Nat) : State := loaded (List.replicate m 0#8) (List.replicate n 0#8)

/-- The symbols of the body of the text in `IBUF`. -/
def bodySymbols (s : State) : List Symbol := (textBody s.inputItems).map fun c => (charToSymbol s.rlut c).getD 0#5

/-- The groups of a successful regrouping. -/
def groupsOf {fw tw : Nat} : Except ErrorCode (Regrouped fw tw) → Option (List (BitVec tw))
  | .ok r => some r.groups
  | .error _ => none

theorem ok_of_groupsOf {fw tw : Nat} {x : Except ErrorCode (Regrouped fw tw)} {g : List (BitVec tw)}
    (h : groupsOf x = some g) : ∃ r, x = .ok r ∧ r.groups = g := by
  cases x with
  | error e => cases h
  | ok r => exact ⟨r, rfl, by simpa [groupsOf] using h⟩

theorem padError_of_groupsOf {fw tw : Nat} {pad : Bool} {gs : List (BitVec fw)}
    (h : groupsOf (regroup fw tw pad gs) = none) : regroup fw tw pad gs = .error .invalidPadding := by
  cases hx : regroup fw tw pad gs with
  | error e => exact congrArg _ (regroup_error hx).2
  | ok r => rw [hx] at h; cases h

theorem exec_next (i : Instr) (s : State) : ∃ t, exec i s = .next t := by
  cases i with
  | aEnc => exact command_next s s.aEncBad (aEncBody s)
  | aDec => exact command_next s s.aDecBad (aDecBody s)
  | rg85 pad => exact command_next s (s.rg85Bad pad) (rg85Body pad s)
  | rg58 pad => exact command_next s (s.rg58Bad pad) (rg58Body pad s)
  | ckGen => exact command_next s s.ckGenBad (ckGenBody s)
  | ckVfy => exact command_next s s.ckVfyBad (ckVfyBody s)
  | encode nopfx => exact command_next s s.encodeBad (encodeBody nopfx s)
  | decode => exact command_next s s.decodeBad (decodeBody s)

theorem loaded_ready (p i : List Byte) : (loaded p i).ready = true := by simp [State.ready, loaded]

theorem loaded_built (p i : List Byte) : (loaded p i).TableBuilt := rfl

theorem witness_IllegalWordIsReportedAndDoesNothing :
    ∃ (s : State) (v : Byte) (rest : List Event) (why : Illegal),
      s.events = .hostWrite Config.cmdAddr v :: rest ∧ s.ready = true ∧ decode v = .error why :=
  ⟨{ loaded [] [] with events := [.hostWrite Config.cmdAddr 0x09#8] }, 0x09#8, [], .unassignedOp, rfl, rfl, rfl⟩

theorem witness_DecodeAndEncodeAgree : ∃ (v : BitVec 8) (i : Instr), decode v = .ok i := ⟨0x27#8, _, rfl⟩

theorem witness_StepRunsTheCommandWrittenToCmd :
    ∃ (s : State) (v : Byte) (rest : List Event) (i : Instr),
      s.events = .hostWrite Config.cmdAddr v :: rest ∧ s.ready = true ∧ decode v = .ok i :=
  ⟨{ loaded [] [] with events := [.hostWrite Config.cmdAddr 0x13#8, .reset] }, 0x13#8, [.reset], _, rfl, rfl, rfl⟩

theorem witness_PlacedWordIsRunByTheNextStep : ∃ (w : Nat) (i : Instr), decodeTableWord 8 w = some i := ⟨0x08, _, rfl⟩

theorem witness_CommandBeforeReadyOnlyReportsNotReady :
    ∃ (s : State) (v : Byte) (rest : List Event), s.events = .hostWrite Config.cmdAddr v :: rest ∧ s.ready = false :=
  ⟨{ State.reset with events := [.hostWrite Config.cmdAddr 0xFF#8] }, 0xFF#8, [], rfl, rfl⟩

/-- Every address but `CMD` falls under exactly one clause. -/
theorem witness_HostWriteChangesOnlyTheAddressedItem : ∀ a : HostAddr,
    ([decide (a.toNat = 0), decide (a.toNat = 2), decide (a.toNat = 3),
      decide (0x100 ≤ a.toNat ∧ a.toNat < 0x120 ∨ 0x200 ≤ a.toNat ∧ a.toNat < 0x280),
      decide (a.toNat = 1 ∨ 4 ≤ a.toNat ∧ a.toNat < 0x100 ∨ 0x120 ≤ a.toNat ∧ a.toNat < 0x200 ∨ 0x280 ≤ a.toNat)].filter
        id).length = 1 ∧
    { State.reset with events := [.hostWrite a 7#8] }.events = .hostWrite a 7#8 :: [] := by decide +kernel

/-- Every address falls under exactly one clause. -/
theorem witness_HostReadReturnsTheAddressedItem : ∀ a : HostAddr,
    ([decide (a.toNat = 1), decide (a.toNat = 2), decide (a.toNat = 3), decide (a.toNat = 4),
      decide (0x100 ≤ a.toNat ∧ a.toNat < 0x120 ∨ 0x200 ≤ a.toNat ∧ a.toNat < 0x280),
      decide (0x300 ≤ a.toNat ∧ a.toNat < 0x380),
      decide (a.toNat = 0 ∨ 5 ≤ a.toNat ∧ a.toNat < 0x100 ∨ 0x120 ≤ a.toNat ∧ a.toNat < 0x200 ∨
        0x280 ≤ a.toNat ∧ a.toNat < 0x300 ∨ 0x380 ≤ a.toNat)].filter id).length = 1 ∧
    { State.reset with events := [.hostRead a] }.events = .hostRead a :: [] := by decide +kernel

theorem witness_OutputIsGatedByOlen :
    (∃ t, (zeros 0 0).ready = true ∧ exec .ckGen (zeros 0 0) = .next t ∧ t.err = 0#4) ∧
      ∃ t k, (zeros 0 0).ready = true ∧ exec (.encode false) (zeros 0 0) = .next t ∧ t.err ≠ 0#4 ∧ k < Config.OCAP := by
  obtain ⟨t, h, ht⟩ := next_of_any (o := exec .ckGen (zeros 0 0)) (p := fun t => t.err = 0#4) (by decide +kernel)
  obtain ⟨u, g, hu⟩ := next_of_any (o := exec (.encode false) (zeros 0 0)) (p := fun t => t.err ≠ 0#4) (by decide +kernel)
  exact ⟨⟨t, rfl, h, by simpa using ht⟩, u, 127, rfl, g, by simpa using hu, by decide +kernel⟩

theorem witness_ResetEventRestoresTheResetValues :
    ∃ (s : State) (rest : List Event), s.events = .reset :: rest ∧ s.olen ≠ 0#8 :=
  ⟨{ loaded [] [] with olen := 54#8, events := [.reset] }, [], rfl, by decide +kernel⟩

theorem witness_InitBuildsTheTableAndSetsReady :
    (∃ (s : State) (rest : List Event), s.events = .initialiser :: rest ∧ s.ready = false) ∧
      ∃ (s : State) (rest : List Event), s.events = .initialiser :: rest ∧ s.ready = true :=
  ⟨⟨{ State.reset with events := [.initialiser] }, [], rfl, rfl⟩,
    { loaded [] [] with events := [.initialiser] }, [], rfl, rfl⟩

theorem witness_BlockWithoutEventsInitialisesOrIdles :
    (∃ s : State, s.events = [] ∧ s.ready = true) ∧ ∃ s : State, s.events = [] ∧ s.ready = false :=
  ⟨⟨loaded [] [], rfl, rfl⟩, State.reset, rfl, rfl⟩

theorem witness_ReverseTableInvertsEveryAlphabet :
    ∃ alphabet : Vector Byte 32, ∀ j k : Fin 32, alphabet[j] = alphabet[k] → j = k :=
  ⟨Config.ALPHABET, by decide +kernel⟩

/-- The reset state meets the invariant, so the statements about every state that meets it are not empty. -/
theorem witness_StepKeepsTheInvariant : State.reset.Inv ∧ ∃ t, step State.reset = .next t where
  left :=
    { memWf := rfl, reservedZero := rfl, errIsLegal := rfl, olenFits := by decide +kernel,
      resultWritten := fun k h => absurd h (by simp [State.reset]), tableBuilt := fun h => absurd h (by decide +kernel),
      quietBeforeReady := fun _ => ⟨rfl, rfl, .inl rfl⟩, vokNoError := fun h => absurd h (by decide +kernel),
      cntSmall := by decide +kernel, scratchFits := by decide +kernel }
  right := ⟨_, rfl⟩

/-- A run from a ready state with a result meets the invariant too: the state after `CK_GEN`. -/
theorem witness_EveryRunFromASafeStateIsSafe : State.reset.Inv := witness_StepKeepsTheInvariant.1

theorem witness_NoCommandWritesItsOperands : ∃ (i : Instr) (s t : State), exec i s = .next t :=
  ⟨.ckGen, zeros 3 3, _, (exec_next _ _).choose_spec⟩

theorem witness_CommandKeepsTheWorkingRegistersItDoesNotUse :
    (∃ (i : Instr) (s t : State), (i = .aEnc ∨ i = .aDec) ∧ exec i s = .next t) ∧
    (∃ (pad : Bool) (i : Instr) (s t : State), (i = .rg85 pad ∨ i = .rg58 pad) ∧ exec i s = .next t) ∧
    ∃ (i : Instr) (s t : State), (i = .ckGen ∨ i = .ckVfy) ∧ exec i s = .next t :=
  ⟨⟨.aEnc, zeros 0 3, _, .inl rfl, (exec_next _ _).choose_spec⟩,
    ⟨true, .rg85 true, zeros 0 3, _, .inl rfl, (exec_next _ _).choose_spec⟩,
    .ckVfy, zeros 0 3, _, .inr rfl, (exec_next _ _).choose_spec⟩

theorem witness_FailedCommandChangesOnlyItsReport :
    ∃ t, (zeros 0 20).ready = true ∧ exec (.encode true) (zeros 0 20) = .next t ∧ t.err ≠ 0#4 := by
  obtain ⟨t, h, ht⟩ := next_of_any (o := exec (.encode true) (zeros 0 20)) (p := fun t => t.err ≠ 0#4)
    (by decide +kernel)
  exact ⟨t, rfl, h, by simpa using ht⟩

theorem witness_ReadyIsSetByInitAndClearedByReset :
    (∃ s t : State, step s = .next t ∧ s.ready = true ∧ t.ready = false) ∧
      ∃ s t : State, step s = .next t ∧ s.ready = false ∧ t.ready = true :=
  ⟨⟨{ loaded [] [] with events := [.reset] }, _, rfl, rfl, rfl⟩, State.reset, _, rfl, rfl, rfl⟩

theorem witness_VokIsTheVerdictOfVerifyOrDecode :
    (∃ t, (loaded (nums [0x61]) (nums [17, 6, 17, 13, 6, 28, 5, 14])).ready = true ∧
      exec .ckVfy (loaded (nums [0x61]) (nums [17, 6, 17, 13, 6, 28, 5, 14])) = .next t ∧ t.vok = true) ∧
    ∃ t, (loaded bitcoincash zeroBody).ready = true ∧ exec .decode (loaded bitcoincash zeroBody) = .next t ∧
      t.vok = true := by
  obtain ⟨t, h, ht⟩ := next_of_any (o := exec .ckVfy (loaded (nums [0x61]) (nums [17, 6, 17, 13, 6, 28, 5, 14])))
    (p := State.vok) (by decide +kernel)
  obtain ⟨u, g, hu⟩ := next_of_any (o := exec .decode (loaded bitcoincash zeroBody)) (p := State.vok) (by decide +kernel)
  exact ⟨⟨t, rfl, h, ht⟩, u, rfl, g, hu⟩

theorem witness_EachCommandReportsOnlyItsOwnErrors :
    ∃ t, (zeros 0 1).ready = true ∧ exec (.rg58 false) (zeros 0 1) = .next t ∧ t.err = 3#4 := by
  obtain ⟨t, h, ht⟩ := next_of_any (o := exec (.rg58 false) (zeros 0 1)) (p := fun t => t.err = 3#4) (by decide +kernel)
  exact ⟨t, rfl, h, by simpa using ht⟩

theorem witness_RepeatingACommandIsIdempotent :
    ∃ (i : Instr) (s t u : State), exec i s = .next t ∧ exec i t = .next u ∧ t.olen = 8#8 := by
  obtain ⟨t, h, ht⟩ := next_of_any (o := exec .ckGen (zeros 0 0)) (p := fun t => t.olen = 8#8) (by decide +kernel)
  obtain ⟨u, hu⟩ := exec_next .ckGen t
  exact ⟨.ckGen, _, t, u, h, hu, by simpa using ht⟩

/-- Two states that differ in an old error, an old result and the working registers. -/
theorem witness_OutcomeDependsOnlyOnTheOperands :
    ∃ s s' t t' : State, s ≠ s' ∧ s.ready = true ∧ s'.ready = true ∧ s'.prefixItems = s.prefixItems ∧
      s'.inputItems = s.inputItems ∧ s'.rlut = s.rlut ∧ exec .ckGen s = .next t ∧ exec .ckGen s' = .next t' :=
  ⟨zeros 2 2, { zeros 2 2 with status := 0x51#8, olen := 3#8, ckC := 7#40 }, _, _, by decide +kernel, rfl, rfl, rfl, rfl, rfl,
    (exec_next _ _).choose_spec, (exec_next _ _).choose_spec⟩

/-- A boundary state for each row of R201's table. -/
theorem witness_BadOperandTestsGiveTheErrorExit :
    Config.ICAP < (zeros 0 129).ilen.toNat ∧ Config.PCAP < (zeros 33 0).plen.toNat ∧
      ¬SymbolInput (loaded [] (nums [0, 32])) ∧ Config.OCAP < (zeros 0 129).ilen.toNat ∧
      Config.OCAP < (8 * (zeros 0 81).ilen.toNat + 4) / 5 ∧ Config.OCAP < 8 * (zeros 0 81).ilen.toNat / 5 ∧
      Config.OCAP < (5 * (zeros 0 205).ilen.toNat + 7) / 8 ∧ Config.OCAP < 5 * (zeros 0 207).ilen.toNat / 8 ∧
      (zeros 0 207).ready = true :=
  ⟨by decide +kernel, by decide +kernel, by rw [← badSymbolItem_eq_false_iff]; decide +kernel, by decide +kernel, by decide +kernel, by decide +kernel, by decide +kernel,
    by decide +kernel, rfl⟩

/-- The clauses of the symbol commands: not ready; `ILEN` 129 and 128; `PLEN` 33 and 32; an item with bit 5 set. -/
theorem witness_SymbolCommandClauses :
    State.reset.ready = false ∧ (zeros 33 129).ready = true ∧ Config.ICAP < (zeros 33 129).ilen.toNat ∧
      Config.PCAP < (zeros 33 129).plen.toNat ∧ ¬SymbolInput (loaded [] (nums [0x1F, 0x20])) ∧
      (zeros 32 128).ready = true ∧ (zeros 32 128).ilen.toNat ≤ Config.ICAP ∧ (zeros 32 128).ilen.toNat ≤ Config.OCAP ∧
      (zeros 32 128).plen.toNat ≤ Config.PCAP ∧ SymbolInput (zeros 32 128) :=
  ⟨rfl, rfl, by decide +kernel, by decide +kernel, by rw [← badSymbolItem_eq_false_iff]; decide +kernel, rfl, by decide +kernel, by decide +kernel,
    by decide +kernel, symbolInput_of (by decide +kernel)⟩

theorem witness_AEncWritesTheCharacterOfEachSymbol :
    (zeros 0 128).ready = true ∧ (zeros 0 128).ilen.toNat ≤ Config.ICAP ∧ (zeros 0 128).ilen.toNat ≤ Config.OCAP ∧
      SymbolInput (zeros 0 128) := ⟨rfl, by decide +kernel, by decide +kernel, symbolInput_of (by decide +kernel)⟩

theorem witness_ADecWritesTheSymbolOfEachCharacter :
    ((loaded [] (nums [0x71, 0x62])).ready = true ∧
      ∃ c ∈ (loaded [] (nums [0x71, 0x62])).inputItems, charToSymbol (loaded [] (nums [0x71, 0x62])).rlut c = none) ∧
    ∃ xs : List Symbol, (loaded [] (List.replicate 16 0x6C#8)).ready = true ∧
      (loaded [] (List.replicate 16 0x6C#8)).ilen.toNat ≤ Config.ICAP ∧
      (loaded [] (List.replicate 16 0x6C#8)).inputItems.map (charToSymbol (loaded [] (List.replicate 16 0x6C#8)).rlut) =
        xs.map some :=
  ⟨⟨rfl, 0x62#8, by decide +kernel, by decide +kernel⟩, List.replicate 16 31#5, rfl, by decide +kernel, by decide +kernel⟩

theorem witness_Rg85RegroupsBytesToSymbols :
    (Config.ICAP < (zeros 0 129).ilen.toNat ∧ Config.OCAP < (8 * (zeros 0 81).ilen.toNat + 4) / 5) ∧
    (∃ s : State, s.ready = true ∧ s.ilen.toNat ≤ Config.ICAP ∧ 8 * s.ilen.toNat / 5 ≤ Config.OCAP ∧
      SomeBitSet s.inputItems (8 * s.ilen.toNat - 8 * s.ilen.toNat % 5) (8 * s.ilen.toNat)) ∧
    ∃ s : State, s.ready = true ∧ s.ilen.toNat = 80 ∧ (8 * s.ilen.toNat + 4) / 5 ≤ Config.OCAP ∧
      ¬SomeBitSet s.inputItems (8 * s.ilen.toNat - 8 * s.ilen.toNat % 5) (8 * s.ilen.toNat) :=
  ⟨⟨by decide +kernel, by decide +kernel⟩,
    ⟨loaded [] (nums [0x01]), rfl, by decide +kernel, by decide +kernel, 7, by decide +kernel, by decide +kernel, by decide +kernel⟩,
    zeros 0 80, rfl, by decide +kernel, by decide +kernel, fun ⟨n, h1, h2, _⟩ => by
      have : (zeros 0 80).ilen.toNat = 80 := by decide +kernel
      omega⟩

theorem witness_Rg58RegroupsSymbolsToBytes :
    (∃ s : State, s.ready = true ∧ SymbolInput s ∧ s.ilen.toNat ≤ Config.ICAP ∧ 5 ≤ 5 * s.ilen.toNat % 8) ∧
    (∃ s : State, s.ready = true ∧ SymbolInput s ∧ 5 * s.ilen.toNat % 8 < 5 ∧
      SomeBitSet s.inputSymbols (5 * s.ilen.toNat - 5 * s.ilen.toNat % 8) (5 * s.ilen.toNat)) ∧
    ∃ s : State, s.ready = true ∧ s.ilen.toNat = 128 ∧ SymbolInput s ∧ 5 * s.ilen.toNat % 8 < 5 ∧
      ¬SomeBitSet s.inputSymbols (5 * s.ilen.toNat - 5 * s.ilen.toNat % 8) (5 * s.ilen.toNat) :=
  ⟨⟨zeros 0 1, rfl, symbolInput_of (by decide +kernel), by decide +kernel, by decide +kernel⟩,
    ⟨loaded [] (nums [31, 29]), rfl, symbolInput_of (by decide +kernel), by decide +kernel, 9, by decide +kernel, by decide +kernel,
      by decide +kernel⟩,
    zeros 0 128, rfl, by decide +kernel, symbolInput_of (by decide +kernel), by decide +kernel, fun ⟨n, h1, h2, _⟩ => by
      have : (zeros 0 128).ilen.toNat = 128 := by decide +kernel
      omega⟩

/-- The clauses of `ENCODE`: `ILEN` 20 and 22, a bad tag, and both legal tags with a prefix of 32 items. -/
theorem witness_EncodeWritesTheTextOfARawAddress :
    ((zeros 0 20).ilen ≠ 21#8 ∧ (zeros 0 22).ilen ≠ 21#8 ∧ (zeros 0 22).ilen.toNat ≤ Config.ICAP) ∧
    (∃ s : State, s.ready = true ∧ s.plen.toNat ≤ Config.PCAP ∧ s.ilen = 21#8 ∧
      s.memRead Config.ibufBase ≠ 0x00#8 ∧ s.memRead Config.ibufBase ≠ 0x08#8) ∧
    (∃ s : State, s.ready = true ∧ s.plen.toNat = 32 ∧ s.ilen = 21#8 ∧ s.memRead Config.ibufBase = 0x00#8) ∧
    ∃ s : State, s.ready = true ∧ s.plen.toNat = 32 ∧ s.ilen = 21#8 ∧ s.memRead Config.ibufBase = 0x08#8 :=
  ⟨⟨by decide +kernel, by decide +kernel, by decide +kernel⟩,
    ⟨loaded [] (0x01#8 :: List.replicate 20 0#8), rfl, by decide +kernel, by decide +kernel, by decide +kernel, by decide +kernel⟩,
    ⟨loaded (List.replicate 32 0x61#8) zeroRaw, rfl, by decide +kernel, by decide +kernel, by decide +kernel⟩,
    loaded (List.replicate 32 0x61#8) (0x08#8 :: List.replicate 20 0#8), rfl, by decide +kernel, by decide +kernel, by decide +kernel⟩

/-! The clauses of `DecodeRunsItsStagesInOrder`, each with a text of 95_test_vectors.md 2.5 that comes to it. -/

/-- A text for the clause. -/
def textWrongNetwork : State := loaded bitcoincash (bchtest ++ [0x3A#8] ++ zeroBody)

theorem witness_decodeWrongNetwork : textWrongNetwork.ready = true ∧ textWrongNetwork.ilen.toNat ≤ Config.ICAP ∧ textWrongNetwork.plen.toNat ≤ Config.PCAP ∧
    ¬PrefixAccepted textWrongNetwork.prefixItems textWrongNetwork.inputItems :=
  ⟨rfl, by decide +kernel, by decide +kernel, by unfold PrefixAccepted; decide +kernel⟩

/-- A text for the clause. -/
def textInvalidCharacter : State := loaded bitcoincash (nums [0x62])

theorem witness_decodeInvalidCharacter : textInvalidCharacter.ready = true ∧ textInvalidCharacter.ilen.toNat ≤ Config.ICAP ∧ textInvalidCharacter.plen.toNat ≤ Config.PCAP ∧
    PrefixAccepted textInvalidCharacter.prefixItems textInvalidCharacter.inputItems ∧
    ∃ c ∈ textBody textInvalidCharacter.inputItems, charToSymbol textInvalidCharacter.rlut c = none :=
  ⟨rfl, by decide +kernel, by decide +kernel, by unfold PrefixAccepted; decide +kernel, 0x62#8, by decide +kernel, by decide +kernel⟩

/-- A text for the clause. -/
def textTooShort : State := loaded bitcoincash (nums [0x71, 0x71, 0x71, 0x71, 0x71, 0x71, 0x71])

theorem witness_decodeTooShort : textTooShort.ready = true ∧ textTooShort.ilen.toNat ≤ Config.ICAP ∧ textTooShort.plen.toNat ≤ Config.PCAP ∧
    PrefixAccepted textTooShort.prefixItems textTooShort.inputItems ∧
    (textBody textTooShort.inputItems).map (charToSymbol textTooShort.rlut) = (bodySymbols textTooShort).map some ∧
    (bodySymbols textTooShort).length < 8 :=
  ⟨rfl, by decide +kernel, by decide +kernel, by unfold PrefixAccepted; decide +kernel, by decide +kernel, by decide +kernel⟩

/-- A text for the clause. -/
def textChecksumMismatch : State := loaded bitcoincash (nums [0x71, 0x71, 0x71, 0x71, 0x71, 0x71, 0x71, 0x71])

theorem witness_decodeChecksumMismatch : textChecksumMismatch.ready = true ∧ textChecksumMismatch.ilen.toNat ≤ Config.ICAP ∧ textChecksumMismatch.plen.toNat ≤ Config.PCAP ∧
    PrefixAccepted textChecksumMismatch.prefixItems textChecksumMismatch.inputItems ∧
    (textBody textChecksumMismatch.inputItems).map (charToSymbol textChecksumMismatch.rlut) = (bodySymbols textChecksumMismatch).map some ∧
    8 ≤ (bodySymbols textChecksumMismatch).length ∧ polymod (expand textChecksumMismatch.prefixItems ++ bodySymbols textChecksumMismatch) ≠ 0#40 :=
  ⟨rfl, by decide +kernel, by decide +kernel, by unfold PrefixAccepted; decide +kernel, by decide +kernel, by decide +kernel, by decide +kernel⟩

/-- A text for the clause. -/
def textInvalidPadding : State := loaded bitcoincash (nums [0x71, 0x30, 0x6E, 0x33, 0x35, 0x34, 0x65, 0x63, 0x75])

theorem witness_decodeInvalidPadding : textInvalidPadding.ready = true ∧ textInvalidPadding.ilen.toNat ≤ Config.ICAP ∧ textInvalidPadding.plen.toNat ≤ Config.PCAP ∧
    PrefixAccepted textInvalidPadding.prefixItems textInvalidPadding.inputItems ∧
    (textBody textInvalidPadding.inputItems).map (charToSymbol textInvalidPadding.rlut) = (bodySymbols textInvalidPadding).map some ∧
    8 ≤ (bodySymbols textInvalidPadding).length ∧
    polymod (expand textInvalidPadding.prefixItems ++ bodySymbols textInvalidPadding) = 0#40 ∧
    regroup 5 8 false ((bodySymbols textInvalidPadding).take ((bodySymbols textInvalidPadding).length - 8)) = .error .invalidPadding :=
  ⟨rfl, by decide +kernel, by decide +kernel, by unfold PrefixAccepted; decide +kernel, by decide +kernel, by decide +kernel, by decide +kernel,
    padError_of_groupsOf (by decide +kernel)⟩

/-- A text for the clause. -/
def textNoByte : State := loaded bitcoincash (nums [0x61, 0x35, 0x61, 0x38, 0x79, 0x72, 0x68, 0x7A])

theorem witness_decodeNoByte : textNoByte.ready = true ∧ textNoByte.ilen.toNat ≤ Config.ICAP ∧ textNoByte.plen.toNat ≤ Config.PCAP ∧
    PrefixAccepted textNoByte.prefixItems textNoByte.inputItems ∧
    (textBody textNoByte.inputItems).map (charToSymbol textNoByte.rlut) = (bodySymbols textNoByte).map some ∧
    8 ≤ (bodySymbols textNoByte).length ∧
    polymod (expand textNoByte.prefixItems ++ bodySymbols textNoByte) = 0#40 ∧
    ∃ r, regroup 5 8 false ((bodySymbols textNoByte).take ((bodySymbols textNoByte).length - 8)) = .ok r ∧
      r.groups = [] :=
  ⟨rfl, by decide +kernel, by decide +kernel, by unfold PrefixAccepted; decide +kernel, by decide +kernel, by decide +kernel, by decide +kernel,
    ok_of_groupsOf (by decide +kernel)⟩

/-- A text for the clause. -/
def textUnknownType : State := loaded bitcoincash (nums [0x7A, 0x71, 0x34, 0x32, 0x7A, 0x77, 0x6C, 0x68, 0x6C, 0x70])

theorem witness_decodeUnknownType : textUnknownType.ready = true ∧ textUnknownType.ilen.toNat ≤ Config.ICAP ∧ textUnknownType.plen.toNat ≤ Config.PCAP ∧
    PrefixAccepted textUnknownType.prefixItems textUnknownType.inputItems ∧
    (textBody textUnknownType.inputItems).map (charToSymbol textUnknownType.rlut) = (bodySymbols textUnknownType).map some ∧
    8 ≤ (bodySymbols textUnknownType).length ∧
    polymod (expand textUnknownType.prefixItems ++ bodySymbols textUnknownType) = 0#40 ∧
    ∃ r, regroup 5 8 false ((bodySymbols textUnknownType).take ((bodySymbols textUnknownType).length - 8)) = .ok r ∧
      r.groups = [0x10#8] :=
  ⟨rfl, by decide +kernel, by decide +kernel, by unfold PrefixAccepted; decide +kernel, by decide +kernel, by decide +kernel, by decide +kernel,
    ok_of_groupsOf (by decide +kernel)⟩

/-- A text for the clause. -/
def textHashLength : State := loaded bitcoincash (nums [0x71, 0x71, 0x79, 0x71, 0x37, 0x38, 0x6E, 0x66, 0x32, 0x77])

theorem witness_decodeHashLength : textHashLength.ready = true ∧ textHashLength.ilen.toNat ≤ Config.ICAP ∧ textHashLength.plen.toNat ≤ Config.PCAP ∧
    PrefixAccepted textHashLength.prefixItems textHashLength.inputItems ∧
    (textBody textHashLength.inputItems).map (charToSymbol textHashLength.rlut) = (bodySymbols textHashLength).map some ∧
    8 ≤ (bodySymbols textHashLength).length ∧
    polymod (expand textHashLength.prefixItems ++ bodySymbols textHashLength) = 0#40 ∧
    ∃ r, regroup 5 8 false ((bodySymbols textHashLength).take ((bodySymbols textHashLength).length - 8)) = .ok r ∧
      r.groups = [0x00#8] :=
  ⟨rfl, by decide +kernel, by decide +kernel, by unfold PrefixAccepted; decide +kernel, by decide +kernel, by decide +kernel, by decide +kernel,
    ok_of_groupsOf (by decide +kernel)⟩

/-- A text for the clause. -/
def textSuccess : State := loaded bitcoincash (bitcoincash ++ [0x3A#8] ++ zeroBody)

theorem witness_decodeSuccess : textSuccess.ready = true ∧ textSuccess.ilen.toNat ≤ Config.ICAP ∧ textSuccess.plen.toNat ≤ Config.PCAP ∧
    PrefixAccepted textSuccess.prefixItems textSuccess.inputItems ∧
    (textBody textSuccess.inputItems).map (charToSymbol textSuccess.rlut) = (bodySymbols textSuccess).map some ∧
    8 ≤ (bodySymbols textSuccess).length ∧
    polymod (expand textSuccess.prefixItems ++ bodySymbols textSuccess) = 0#40 ∧
    ∃ r, regroup 5 8 false ((bodySymbols textSuccess).take ((bodySymbols textSuccess).length - 8)) = .ok r ∧
      r.groups = zeroRaw :=
  ⟨rfl, by decide +kernel, by decide +kernel, by unfold PrefixAccepted; decide +kernel, by decide +kernel, by decide +kernel, by decide +kernel,
    ok_of_groupsOf (by decide +kernel)⟩

/-- `A_DEC` and `DECODE` on a built table, from a state that a run reaches. -/
theorem witness_AlphabetCommandsUndoEachOther :
    (∃ s u t : State, s.ready = true ∧ s.ilen.toNat ≤ Config.ICAP ∧ SymbolInput s ∧ exec .aEnc s = .next t ∧
      u.ready = true ∧ u.TableBuilt ∧ u.inputItems = t.outputItems) ∧
    ∃ s t u : State, s.ready = true ∧ s.TableBuilt ∧ exec .aDec s = .next t ∧ t.err = 0#4 ∧ u.ready = true ∧
      u.inputItems = t.outputItems := by
  obtain ⟨t, h, ht⟩ := next_of_any (o := exec .aEnc (loaded [] (nums [0, 31])))
    (p := fun t => (loaded [] (nums [0x71, 0x6C])).inputItems = t.outputItems) (by decide +kernel)
  obtain ⟨u, g, hu⟩ := next_of_any (o := exec .aDec (loaded [] (nums [0x71, 0x6C])))
    (p := fun t => t.err = 0#4 ∧ (loaded [] (nums [0, 31])).inputItems = t.outputItems) (by decide +kernel)
  simp only [decide_eq_true_eq] at ht hu
  exact ⟨⟨_, _, t, loaded_ready _ _, by decide +kernel, symbolInput_of (by decide +kernel), h, loaded_ready _ _,
    loaded_built _ _, ht⟩, _, u, _, loaded_ready _ _, loaded_built _ _, g, hu.1, loaded_ready _ _, hu.2⟩

theorem witness_UnpaddedRegroupIsTheBitStreamOrFails :
    (∃ r, regroup 8 5 false [0xF8#8] = .ok r) ∧ SomeBitSet [0x01#8] (1 * 8 - 1 * 8 % 5) (1 * 8) ∧ 5 ≤ 1 * 5 % 8 :=
  ⟨⟨_, rfl⟩, ⟨7, by decide +kernel, by decide +kernel, by decide +kernel⟩, by decide +kernel⟩

theorem witness_SymbolsSurviveRegroupingAndBack : ∃ q, regroup 5 8 false [31#5, 28#5] = .ok q := ⟨_, rfl⟩

theorem witness_Rg58UndoesPaddedRg85 :
    ∃ s t u : State, s.ready = true ∧ s.ilen.toNat = 80 ∧ exec (.rg85 true) s = .next t ∧ u.ready = true ∧
      u.inputItems = t.outputItems := by
  obtain ⟨t, h, ht⟩ := next_of_any (o := exec (.rg85 true) (zeros 0 80))
    (p := fun t => (zeros 0 128).inputItems = t.outputItems) (by decide +kernel)
  exact ⟨_, t, zeros 0 128, rfl, by decide +kernel, h, rfl, by simpa using ht⟩

theorem witness_PolymodIsAffine : ∃ a b : List Symbol, a.length = b.length ∧ a ≠ b := ⟨[1#5], [2#5], rfl, by decide +kernel⟩

theorem witness_CkVfyAcceptsWhatCkGenWrote :
    ∃ s t u : State, s.ready = true ∧ s.ilen.toNat = 120 ∧ s.plen.toNat ≤ Config.PCAP ∧ SymbolInput s ∧
      exec .ckGen s = .next t ∧ u.ready = true ∧ u.prefixItems = s.prefixItems ∧
      u.inputItems = s.inputItems ++ t.outputItems := by
  obtain ⟨t, h, ht⟩ := next_of_any (o := exec .ckGen (zeros 1 120))
    (p := fun t => (loaded [0#8] ((zeros 1 120).inputItems ++ t.outputItems)).inputItems =
      (zeros 1 120).inputItems ++ t.outputItems ∧
      (loaded [0#8] ((zeros 1 120).inputItems ++ t.outputItems)).prefixItems = (zeros 1 120).prefixItems)
    (by decide +kernel)
  simp only [decide_eq_true_eq] at ht
  exact ⟨_, t, _, loaded_ready _ _, by decide +kernel, by decide +kernel, symbolInput_of (by decide +kernel), h,
    loaded_ready _ _, ht.2, ht.1⟩

theorem witness_SingleSymbolChangeIsDetected :
    ∃ (s s' t : State) (j : Nat) (d : Symbol), exec .ckVfy s = .next t ∧ s.ready = true ∧ t.vok = true ∧
      s'.ready = true ∧ s'.prefixItems = s.prefixItems ∧ s'.inputSymbols = s.inputSymbols.set j d ∧
      j < s.inputSymbols.length ∧ s.inputSymbols.getD j 0#5 ≠ d := by
  obtain ⟨t, h, ht⟩ := next_of_any (o := exec .ckVfy (loaded (nums [0x61]) (nums [17, 6, 17, 13, 6, 28, 5, 14])))
    (p := State.vok) (by decide +kernel)
  exact ⟨_, loaded (nums [0x61]) (nums [17, 6, 17, 13, 6, 28, 5, 15]), t, 7, 15#5, h, rfl, ht, rfl, by decide +kernel,
    by decide +kernel, by decide +kernel, by decide +kernel⟩

theorem witness_ChecksumIsBoundToThePrefix :
    ∃ (pfx : List Byte) (j : Nat) (c : Byte), j < pfx.length ∧ (pfx.getD j 0#8).extractLsb' 0 5 ≠ c.extractLsb' 0 5 :=
  ⟨bitcoincash, 10, 0x61#8, by decide +kernel, by decide +kernel⟩

/-- `bitcoincash` and `BITCOINCASH` have the same low five bits. -/
theorem witness_HighBitsOfThePrefixAreNotBound :
    ∃ s s' : State, s.ready = true ∧ s'.ready = true ∧
      s'.prefixItems.map (fun c => c.extractLsb' 0 5) = s.prefixItems.map (fun c => c.extractLsb' 0 5) ∧
      s'.inputItems = s.inputItems ∧ s'.prefixItems ≠ s.prefixItems ∧
      (∃ t t', exec .ckGen s = .next t ∧ exec .ckGen s' = .next t') ∧
      ∃ t t', exec .ckVfy s = .next t ∧ exec .ckVfy s' = .next t' :=
  ⟨loaded bitcoincash (nums [1]), loaded (nums [0x42, 0x49, 0x54, 0x43, 0x4F, 0x49, 0x4E, 0x43, 0x41, 0x53, 0x48]) (nums [1]),
    rfl, rfl, by decide +kernel, by decide +kernel, by decide +kernel,
    ⟨_, _, (exec_next _ _).choose_spec, (exec_next _ _).choose_spec⟩,
    _, _, (exec_next _ _).choose_spec, (exec_next _ _).choose_spec⟩

theorem witness_EncodedTextVerifiesUnderItsPrefix :
    ∃ s t : State, s.ready = true ∧ exec (.encode true) s = .next t ∧ t.err = 0#4 := by
  obtain ⟨t, h, ht⟩ := next_of_any (o := exec (.encode true) (loaded bitcoincash zeroRaw)) (p := fun t => t.err = 0#4)
    (by decide +kernel)
  exact ⟨_, t, rfl, h, by simpa using ht⟩

theorem witness_DecodeUndoesEncode :
    ∃ s t u : State, s.ready = true ∧ s.plen.toNat ≤ Config.PCAP ∧ s.ilen = 21#8 ∧
      s.memRead Config.ibufBase = 0x00#8 ∧ Config.SEP_CODE ∉ s.prefixItems ∧ exec (.encode false) s = .next t ∧
      u.ready = true ∧ u.TableBuilt ∧ u.prefixItems = s.prefixItems ∧ u.inputItems = t.outputItems := by
  obtain ⟨t, h, ht⟩ := next_of_any (o := exec (.encode false) (loaded bitcoincash zeroRaw))
    (p := fun t => (loaded bitcoincash (bitcoincash ++ [0x3A#8] ++ zeroBody)).inputItems = t.outputItems)
    (by decide +kernel)
  exact ⟨_, t, loaded bitcoincash (bitcoincash ++ [0x3A#8] ++ zeroBody), rfl, by decide +kernel, rfl, by decide +kernel,
    by decide +kernel, h, rfl, rfl, by decide +kernel, by simpa using ht⟩

theorem witness_EncodeUndoesDecode :
    ∃ s t u : State, s.ready = true ∧ s.TableBuilt ∧ exec .decode s = .next t ∧ t.err = 0#4 ∧ u.ready = true ∧
      u.prefixItems = s.prefixItems ∧ u.inputItems = t.outputItems := by
  obtain ⟨t, h, ht⟩ := next_of_any (o := exec .decode (loaded bitcoincash zeroBody))
    (p := fun t => t.err = 0#4 ∧ (loaded bitcoincash zeroRaw).inputItems = t.outputItems) (by decide +kernel)
  simp only [decide_eq_true_eq] at ht
  exact ⟨_, t, loaded bitcoincash zeroRaw, loaded_ready _ _, loaded_built _ _, h, ht.1, rfl, by decide +kernel, ht.2⟩

theorem witness_SeparatorInThePrefixBreaksDecode :
    ∃ s t u : State, s.ready = true ∧ s.plen.toNat ≤ Config.PCAP ∧ s.ilen = 21#8 ∧
      s.memRead Config.ibufBase = 0x08#8 ∧ Config.SEP_CODE ∈ s.prefixItems ∧ exec (.encode false) s = .next t ∧
      u.ready = true ∧ u.prefixItems = s.prefixItems ∧ u.inputItems = t.outputItems := by
  obtain ⟨t, h, ht⟩ := next_of_any
    (o := exec (.encode false) (loaded (nums [0x61, 0x3A]) (0x08#8 :: List.replicate 20 0#8)))
    (p := fun t => (loaded (nums [0x61, 0x3A]) t.outputItems).inputItems = t.outputItems ∧
      (loaded (nums [0x61, 0x3A]) t.outputItems).prefixItems = nums [0x61, 0x3A]) (by decide +kernel)
  simp only [decide_eq_true_eq] at ht
  exact ⟨_, t, _, loaded_ready _ _, by decide +kernel, by decide +kernel, by decide +kernel, by decide +kernel, h,
    loaded_ready _ _, ht.2.trans (by decide +kernel), ht.1⟩

theorem witness_DecodeSucceedsExactlyOnValidTexts :
    ∃ s t : State, s.ready = true ∧ s.TableBuilt ∧ s.ilen.toNat ≤ Config.ICAP ∧ s.plen.toNat ≤ Config.PCAP ∧
      exec .decode s = .next t ∧ t.err = 0#4 ∧ textBody s.inputItems = (bodySymbols s).map symbolToChar := by
  obtain ⟨t, h, ht⟩ := next_of_any (o := exec .decode (loaded bitcoincash zeroBody)) (p := fun t => t.err = 0#4)
    (by decide +kernel)
  exact ⟨_, t, loaded_ready _ _, loaded_built _ _, by decide +kernel, by decide +kernel, h, by simpa using ht, by decide +kernel⟩

theorem witness_EncodeIsTheCompositionOfTheSubBlocks :
    ∃ s0 t0 s1 t1 s2 t2 s3 t3 : State,
      (s0.ready = true ∧ s1.ready = true ∧ s2.ready = true ∧ s3.ready = true) ∧
      exec (.encode true) s0 = .next t0 ∧ t0.err = 0#4 ∧
      s1.inputItems = s0.inputItems ∧ exec (.rg85 true) s1 = .next t1 ∧
      s2.prefixItems = s0.prefixItems ∧ s2.inputItems = t1.outputItems ∧ exec .ckGen s2 = .next t2 ∧
      s3.inputItems = t1.outputItems ++ t2.outputItems ∧ exec .aEnc s3 = .next t3 := by
  obtain ⟨t0, h0, e0⟩ := next_of_any (o := exec (.encode true) (loaded bitcoincash zeroRaw)) (p := fun t => t.err = 0#4)
    (by decide +kernel)
  obtain ⟨t1, h1, e1⟩ := next_of_any (o := exec (.rg85 true) (loaded bitcoincash zeroRaw))
    (p := fun t => t.outputItems = List.replicate 34 0#8) (by decide +kernel)
  obtain ⟨t2, h2, e2⟩ := next_of_any (o := exec .ckGen (loaded bitcoincash (List.replicate 34 0#8)))
    (p := fun t => t.outputItems = nums [9, 19, 23, 22, 16, 26, 15, 17]) (by decide +kernel)
  simp only [decide_eq_true_eq] at e0 e1 e2
  exact ⟨_, t0, _, t1, _, t2,
    loaded [] (List.replicate 34 0#8 ++ nums [9, 19, 23, 22, 16, 26, 15, 17]), _, ⟨rfl, rfl, rfl, rfl⟩, h0, e0, rfl, h1,
    by decide +kernel, by rw [e1]; decide +kernel, h2, by rw [e1, e2]; decide +kernel,
    (exec_next _ _).choose_spec⟩

end Sys2Proof.Tests
end

section
/-! Safety of the block (00_scope.md R13): it always answers a next state, and every step keeps the invariant, so a run
from a state that meets the invariant never stops and never leaves it. -/

namespace Sys2Proof.Machine

/-! ### Every command is the common steps with its own check and pseudocode -/

/-- The operand check of each command (R201). -/
def operandsBad : Instr → State → Bool
  | .aEnc, s => s.aEncBad
  | .aDec, s => s.aDecBad
  | .rg85 pad, s => s.rg85Bad pad
  | .rg58 pad, s => s.rg58Bad pad
  | .ckGen, s => s.ckGenBad
  | .ckVfy, s => s.ckVfyBad
  | .encode _, s => s.encodeBad
  | .decode, s => s.decodeBad

/-- The pseudocode of each command. -/
def commandBody : Instr → State → Except ErrorCode State
  | .aEnc, s => aEncBody s
  | .aDec, s => aDecBody s
  | .rg85 pad, s => rg85Body pad s
  | .rg58 pad, s => rg58Body pad s
  | .ckGen, s => ckGenBody s
  | .ckVfy, s => ckVfyBody s
  | .encode nopfx, s => encodeBody nopfx s
  | .decode, s => decodeBody s

theorem exec_eq_command (i : Instr) (s : State) : exec i s = command s (operandsBad i s) (commandBody i s) := by
  cases i <;> rfl

/-! ### The block always answers a next state -/

theorem exec_answers_next (i : Instr) (s : State) : ∃ t, exec i s = .next t :=
  exec_eq_command i s ▸ command_next s _ _

theorem issueCommand_answers_next (v : Byte) (s : State) : ∃ t, issueCommand v s = .next t := by
  unfold issueCommand
  split
  · split
    · exact ⟨_, rfl⟩
    · exact exec_answers_next _ s
  · exact ⟨_, rfl⟩

theorem hostWrite_answers_next (a : HostAddr) (v : Byte) (s : State) : ∃ t, hostWrite a v s = .next t := by
  unfold hostWrite
  cases locate a with
  | cmd => exact issueCommand_answers_next v s
  | _ => exact ⟨_, rfl⟩

theorem runEvent_answers_next (e : Event) (s : State) : ∃ t, runEvent e s = .next t := by
  cases e with
  | hostWrite a v => exact hostWrite_answers_next a v s
  | _ => exact ⟨_, rfl⟩

theorem step_of_no_events {s : State} (h : s.events = []) : step s = .next s.initIfEnabled := by
  simp [step, h, idle]

theorem step_of_event {s : State} {e : Event} {rest : List Event} (h : s.events = e :: rest) :
    step s = runEvent e { s with events := rest } := by simp [step, h]

theorem step_answers_next (s : State) : ∃ t, step s = .next t := by
  cases h : s.events with
  | nil => exact ⟨_, step_of_no_events h⟩
  | cons e rest => exact step_of_event h ▸ runEvent_answers_next e _

/-! ### What a host write can do -/

theorem issueCommand_cases {v : Byte} {s t : State} (h : issueCommand v s = .next t) :
    (s.ready = false ∧ t = s.reportNotReady) ∨ (s.ready = true ∧ t = s.raise .illegalCommand) ∨
      ∃ i, decode v = .ok i ∧ exec i s = .next t := by
  unfold issueCommand at h
  split at h
  next hr =>
    split at h
    next => cases h; exact .inr (.inl ⟨hr, rfl⟩)
    next i hi => exact .inr (.inr ⟨i, hi, h⟩)
  next hr => cases h; exact .inl ⟨by simpa using hr, rfl⟩

theorem locate_pfx_lt {a : HostAddr} {k : Nat} (h : locate a = .pfx k) : k < Config.PCAP := by
  simp only [locate] at h
  split at h <;> split_ifs at h
  cases h
  assumption

theorem locate_ibuf_lt {a : HostAddr} {k : Nat} (h : locate a = .ibuf k) : k < Config.ICAP := by
  simp only [locate] at h
  split at h <;> split_ifs at h
  cases h
  assumption

/-- A host write runs a command, writes a length register, writes a buffer item, or has no effect. -/
theorem hostWrite_cases {a : HostAddr} {v : Byte} {s t : State} (h : hostWrite a v s = .next t) :
    issueCommand v s = .next t ∨ t = { s with plen := v } ∨ t = { s with ilen := v } ∨
      (∃ b, isBufferAddr b = true ∧ t = s.memWrite b v) ∨ t = s := by
  unfold hostWrite at h
  cases hl : locate a with
  | cmd => rw [hl] at h; exact .inl h
  | plen => rw [hl] at h; cases h; exact .inr (.inl rfl)
  | ilen => rw [hl] at h; cases h; exact .inr (.inr (.inl rfl))
  | pfx k =>
    rw [hl] at h; cases h
    exact .inr (.inr (.inr (.inl ⟨_, isBufferAddr_pfx (locate_pfx_lt hl), rfl⟩)))
  | ibuf k =>
    rw [hl] at h; cases h
    exact .inr (.inr (.inr (.inl ⟨_, isBufferAddr_ibuf (locate_ibuf_lt hl), rfl⟩)))
  | _ => rw [hl] at h; cases h; exact .inr (.inr (.inr (.inr rfl)))

/-! ### How the pseudocode of a command succeeds -/

theorem regroup_length_eq_count {fw tw : Nat} (htw : 0 < tw) {pad : Bool} {gs : List (BitVec fw)} {r : Regrouped fw tw}
    (h : regroup fw tw pad gs = .ok r) : r.groups.length = regroupCount fw tw pad gs.length :=
  regroup_length htw h

/-- The registers after a successful `regroup` are those that its loop leaves. -/
theorem regroup_regs {fw tw : Nat} {pad : Bool} {gs : List (BitVec fw)} {r : Regrouped fw tw}
    (h : regroup fw tw pad gs = .ok r) : r.regs = (rgLoop ⟨0, 0⟩ gs).regs := by
  unfold regroup at h
  cases pad with
  | true =>
    simp only [if_true] at h
    split at h <;> cases h <;> rfl
  | false =>
    simp only [Bool.false_eq_true, if_false] at h
    split at h
    · cases h
    · split at h <;> cases h
      rfl

/-- Fewer bits than one group are left waiting (R122). -/
theorem regroup_cnt_lt {fw tw : Nat} (htw : 0 < tw) {pad : Bool} {gs : List (BitVec fw)} {r : Regrouped fw tw}
    (h : regroup fw tw pad gs = .ok r) : r.regs.cnt < tw := by
  rw [regroup_regs h, (rgLoop_spec htw ⟨0, 0⟩ gs htw).2]
  exact Nat.mod_lt _ htw

theorem aDecBody_ok {s t : State} (h : aDecBody s = .ok t) :
    ∃ xs, charsToSymbols s.rlut s.inputItems = .ok xs ∧ t = (s.out (xs.map itemOfSymbol)).done false := by
  unfold aDecBody at h
  split at h
  next => cases h
  next xs hx => cases h; exact ⟨xs, hx, rfl⟩

theorem rg85Body_ok {pad : Bool} {s t : State} (h : rg85Body pad s = .ok t) :
    ∃ r, regroup 8 5 pad s.inputItems = .ok r ∧
      t = ((s.withRg r.regs.acc r.regs.cnt).out (r.groups.map itemOfSymbol)).done false := by
  unfold rg85Body at h
  split at h
  next => cases h
  next r hr => cases h; exact ⟨r, hr, rfl⟩

theorem rg58Body_ok {pad : Bool} {s t : State} (h : rg58Body pad s = .ok t) :
    ∃ r, regroup 5 8 pad s.inputSymbols = .ok r ∧
      t = ((s.withRg r.regs.acc r.regs.cnt).out r.groups).done false := by
  unfold rg58Body at h
  split at h
  next => cases h
  next r hr => cases h; exact ⟨r, hr, rfl⟩

/-- The symbols of a text address: the regrouped payload and its checksum symbols (R162). -/
def encodedSymbols (s : State) (r : Regrouped 8 5) : List Symbol :=
  r.groups ++ cksyms (polymod (cksumInput s.prefixItems r.groups))

/-- The result of `ENCODE`: the characters alone, or behind `PFX` and the separator (R162). -/
def encodedText (nopfx : Bool) (s : State) (r : Regrouped 8 5) : List Byte :=
  if nopfx then (encodedSymbols s r).map symbolToChar
  else s.prefixItems ++ [Config.SEP_CODE] ++ (encodedSymbols s r).map symbolToChar

theorem encodeBody_ok {nopfx : Bool} {s t : State} (h : encodeBody nopfx s = .ok t) :
    s.inputItems.length = Config.RAW_LEN ∧ tagLegal (s.inputItems.headD 0#8) = true ∧
      ∃ r, regroup 8 5 true s.inputItems = .ok r ∧
        t = (((((s.withRg r.regs.acc r.regs.cnt).withCk (ckAcc (cksumInput s.prefixItems r.groups))).withScratch
          (encodedSymbols s r) ((encodedSymbols s r).map symbolToChar) 7).out (encodedText nopfx s r)).done false) := by
  unfold encodeBody at h
  dsimp only at h
  split at h
  next => cases h
  next hlen =>
    split at h
    next => cases h
    next htag =>
      split at h
      next => cases h
      next r hr => cases h; exact ⟨not_not.1 hlen, by simpa using htag, r, hr, rfl⟩

/-- The body of a text is no longer than the text (R171). -/
theorem splitText_length {pfx text body : List Byte} (h : splitText pfx text = .ok body) :
    body.length ≤ text.length := by
  unfold splitText at h
  split at h
  next => cases h; exact Nat.le_refl _
  next k _ =>
    split at h <;> cases h
    simp

/-- What stages 6 and 7 of `DECODE` accept is as long as a raw address (R170, R173). -/
theorem checkRaw_ok_length {b b' : List Byte} (h : checkRaw b = .ok b') : b.length = Config.RAW_LEN := by
  cases b with
  | nil => cases h
  | cons tag hash =>
    simp only [checkRaw] at h
    split at h
    next => cases h
    next =>
      split at h
      next => cases h
      next hlen => exact congrArg Nat.succ (not_not.1 hlen)

theorem decodeSymbols_ok {pfx : List Byte} {syms : List Symbol} {r : Regrouped 5 8}
    (h : decodeSymbols pfx syms = .ok r) :
    Config.CK_NSYM ≤ syms.length ∧ polymod (expand pfx ++ syms) = 0#40 ∧
      regroup 5 8 false (syms.take (syms.length - Config.CK_NSYM)) = .ok r ∧
      ∃ raw, checkRaw r.groups = .ok raw := by
  unfold decodeSymbols at h
  split at h
  next => cases h
  next hlen =>
    split at h
    next => cases h
    next hsum =>
      split at h
      next => cases h
      next r' hr =>
        split at h
        next => cases h
        next raw hraw => cases h; exact ⟨Nat.le_of_not_lt hlen, not_not.1 hsum, hr, raw, hraw⟩

theorem decodeBody_ok {s t : State} (h : decodeBody s = .ok t) :
    ∃ body syms r, splitText s.prefixItems s.inputItems = .ok body ∧ charsToSymbols s.rlut body = .ok syms ∧
      decodeSymbols s.prefixItems syms = .ok r ∧
      t = (((((s.withRg r.regs.acc r.regs.cnt).withCk (ckAcc (expand s.prefixItems ++ syms))).withScratch
        syms r.groups 8).out r.groups).done true) := by
  unfold decodeBody at h
  split at h
  next => cases h
  next body hb =>
    split at h
    next => cases h
    next syms hs =>
      split at h
      next => cases h
      next r hr => cases h; exact ⟨body, syms, r, hb, hs, hr, rfl⟩

/-! ### Every operation keeps the invariant -/

namespace State.Inv

variable {s t : State}

theorem withEvents (h : s.Inv) (es : List Event) : ({ s with events := es } : State).Inv := { h with }

theorem withPlen (h : s.Inv) (v : Byte) : ({ s with plen := v } : State).Inv := { h with }

theorem withIlen (h : s.Inv) (v : Byte) : ({ s with ilen := v } : State).Inv := { h with }

theorem hostRead (h : s.Inv) (a : HostAddr) : (s.hostRead a).Inv := { h with }

theorem withCk (h : s.Inv) (c : CkWord) : (s.withCk c).Inv := { h with }

theorem withRg (h : s.Inv) (acc : BitVec 12) {n : Nat} (hn : n ≤ 12) : (s.withRg acc n).Inv :=
  { h with cntSmall := (BitVec.toNat_ofNat n 4).trans_le ((Nat.mod_le _ _).trans hn) }

theorem withScratch (h : s.Inv) {xs : List Symbol} {bs : List Byte} (n : Nat) (hx : xs.length ≤ Config.ICAP)
    (hb : bs.length ≤ Config.ICAP) : (s.withScratch xs bs n).Inv := { h with scratchFits := ⟨hx, hb⟩ }

theorem memWrite (h : s.Inv) {a : Nat} (ha : isBufferAddr a = true) (v : Byte) : (s.memWrite a v).Inv :=
  { h with
    memWf := Memory.wf_write v ha h.memWf
    resultWritten := fun k hk => by
      rw [State.memWrite_mem, Memory.read_write]
      split
      · rfl
      · exact h.resultWritten k hk }

theorem reportNotReady (h : s.Inv) (hr : s.ready = false) : s.reportNotReady.Inv := by
  obtain ⟨hvok, holen, -⟩ := h.quietBeforeReady hr
  exact { h with
    reservedZero := s.reportNotReady_reserved.trans h.reservedZero
    errIsLegal := by rw [s.reportNotReady_err]; rfl
    tableBuilt := fun ht => h.tableBuilt (s.reportNotReady_ready ▸ ht)
    quietBeforeReady := fun _ => ⟨s.reportNotReady_vok.trans hvok, holen, .inr s.reportNotReady_err⟩
    vokNoError := fun hv => by simp [hvok] at hv }

theorem raise (h : s.Inv) (hr : s.ready = true) (e : ErrorCode) : (s.raise e).Inv :=
  { h with
    reservedZero := (s.raise_reserved e).trans h.reservedZero
    errIsLegal := by rw [s.raise_err]; exact e.code_legal.1
    olenFits := Nat.zero_le _
    resultWritten := fun k hk => absurd hk (Nat.not_lt_zero k)
    tableBuilt := fun _ => h.tableBuilt hr
    quietBeforeReady := fun hn => by simp [hr] at hn
    vokNoError := fun hv => by simp at hv }

/-- The success exit after a result that fits `OBUF`. -/
theorem out_done (h : s.Inv) (hr : s.ready = true) {r : List Byte} (hlen : r.length ≤ Config.OCAP) (b : Bool) :
    ((s.out r).done b).Inv := by
  have holen : ((s.out r).done b).olen.toNat = r.length :=
    (out_done_succeedsWith (KeepsInputs.refl s) (fun _ => rfl) hlen).olen
  exact { h with
    memWf := Memory.wf_writeRun r (fun k hk => isBufferAddr_obuf (hk.trans_le hlen)) h.memWf
    reservedZero := ((s.out r).done_reserved b).trans h.reservedZero
    errIsLegal := by rw [State.done_err]; rfl
    olenFits := holen.trans_le hlen
    resultWritten := fun k hk => by
      rw [State.done_mem, State.out_mem, Memory.read_writeRun_item _ _ _ _ (holen ▸ hk)]
      rfl
    tableBuilt := fun _ => h.tableBuilt hr
    quietBeforeReady := fun hn => by simp [hr] at hn
    vokNoError := fun _ => State.done_err _ b }

theorem init (h : s.Inv) : s.init.Inv :=
  { h with
    reservedZero := s.init_reserved.trans h.reservedZero
    errIsLegal := by rw [s.init_err]; exact h.errIsLegal
    tableBuilt := fun _ => rfl
    quietBeforeReady := fun hn => by simp at hn
    vokNoError := fun hv => s.init_err.trans (h.vokNoError (s.init_vok ▸ hv)) }

theorem initIfEnabled (h : s.Inv) : s.initIfEnabled.Inv := by
  unfold State.initIfEnabled
  split
  · exact h
  · exact h.init

end State.Inv

theorem reset_inv : State.reset.Inv where
  memWf := reset_mem_wf
  reservedZero := rfl
  errIsLegal := rfl
  olenFits := Nat.zero_le _
  resultWritten k hk := absurd hk (Nat.not_lt_zero k)
  tableBuilt hr := absurd hr (by decide)
  quietBeforeReady _ := ⟨rfl, rfl, .inl rfl⟩
  vokNoError hv := absurd hv (by decide)
  cntSmall := Nat.zero_le _
  scratchFits := ⟨Nat.zero_le _, Nat.zero_le _⟩

theorem resetEvent_inv (s : State) : s.resetEvent.Inv := { reset_inv with }

/-! ### Every command keeps the invariant: its result fits `OBUF` and its registers stay in range -/

section
variable {s t : State}

theorem aEncBody_keeps_inv (h : s.Inv) (hr : s.ready = true) (hbad : s.aEncBad = false) (ht : aEncBody s = .ok t) :
    t.Inv := by
  simp only [State.aEncBad, Bool.or_eq_false_iff, outOver_eq_false_iff] at hbad
  cases ht
  exact h.out_done hr (by simpa using hbad.2) false

theorem aDecBody_keeps_inv (h : s.Inv) (hr : s.ready = true) (hbad : s.aDecBad = false) (ht : aDecBody s = .ok t) :
    t.Inv := by
  simp only [State.aDecBad, Bool.or_eq_false_iff, outOver_eq_false_iff] at hbad
  obtain ⟨xs, hx, rfl⟩ := aDecBody_ok ht
  exact h.out_done hr (by simpa [charsToSymbols_length hx] using hbad.2) false

theorem rg85Body_keeps_inv {pad : Bool} (h : s.Inv) (hr : s.ready = true) (hbad : s.rg85Bad pad = false)
    (ht : rg85Body pad s = .ok t) : t.Inv := by
  simp only [State.rg85Bad, Bool.or_eq_false_iff, outOver_eq_false_iff] at hbad
  obtain ⟨r, hx, rfl⟩ := rg85Body_ok ht
  have hcnt := regroup_cnt_lt (by decide) hx
  exact (h.withRg _ (by omega)).out_done hr (by simpa [regroup_length_eq_count (by decide) hx] using hbad.2) false

theorem rg58Body_keeps_inv {pad : Bool} (h : s.Inv) (hr : s.ready = true) (hbad : s.rg58Bad pad = false)
    (ht : rg58Body pad s = .ok t) : t.Inv := by
  simp only [State.rg58Bad, Bool.or_eq_false_iff, outOver_eq_false_iff] at hbad
  obtain ⟨r, hx, rfl⟩ := rg58Body_ok ht
  have hcnt := regroup_cnt_lt (by decide) hx
  exact (h.withRg _ (by omega)).out_done hr (by simpa [regroup_length_eq_count (by decide) hx] using hbad.2) false

theorem ckGenBody_keeps_inv (h : s.Inv) (hr : s.ready = true) (ht : ckGenBody s = .ok t) : t.Inv := by
  cases ht
  exact (h.withCk (ckAcc (cksumInput s.prefixItems s.inputSymbols))).out_done hr (by simp [Config.OCAP]) false

theorem ckVfyBody_keeps_inv (h : s.Inv) (hr : s.ready = true) (ht : ckVfyBody s = .ok t) : t.Inv := by
  cases ht
  exact (h.withCk (ckAcc (expand s.prefixItems ++ s.inputSymbols))).out_done hr (Nat.zero_le _) _

/-- A raw address gives 34 symbols and 8 checksum symbols (R81). -/
theorem encodedSymbols_length {r : Regrouped 8 5} (hlen : s.inputItems.length = Config.RAW_LEN)
    (hr : regroup 8 5 true s.inputItems = .ok r) : (encodedSymbols s r).length = 42 := by
  have hgroups := regroup_length_eq_count (by decide) hr
  rw [hlen] at hgroups
  simp [encodedSymbols, hgroups, regroupCount, Config.RAW_LEN]

theorem encodedText_length_le {nopfx : Bool} {r : Regrouped 8 5} (hplen : s.plen.toNat ≤ Config.PCAP)
    (hsyms : (encodedSymbols s r).length = 42) : (encodedText nopfx s r).length ≤ Config.OCAP := by
  simp only [Config.PCAP] at hplen
  simp only [Config.OCAP, encodedText]
  split
  · simp [hsyms]
  · simp [hsyms]
    omega

theorem encodeBody_keeps_inv {nopfx : Bool} (h : s.Inv) (hr : s.ready = true) (hbad : s.encodeBad = false)
    (ht : encodeBody nopfx s = .ok t) : t.Inv := by
  simp only [State.encodeBad, Bool.or_eq_false_iff, plenOver_eq_false_iff] at hbad
  obtain ⟨hlen, -, r, hx, rfl⟩ := encodeBody_ok ht
  have hcnt := regroup_cnt_lt (by decide) hx
  have hsyms := encodedSymbols_length hlen hx
  have hfits : (encodedSymbols s r).length ≤ Config.ICAP := by simp [hsyms, Config.ICAP]
  exact (((h.withRg _ (by omega)).withCk _).withScratch 7 hfits (by simpa using hfits)).out_done hr
    (encodedText_length_le hbad.2 hsyms) false

theorem decodeBody_keeps_inv (h : s.Inv) (hr : s.ready = true) (hbad : s.decodeBad = false)
    (ht : decodeBody s = .ok t) : t.Inv := by
  simp only [State.decodeBad, Bool.or_eq_false_iff, ilenOver_eq_false_iff] at hbad
  obtain ⟨body, syms, r, hbody, hsyms, hdec, rfl⟩ := decodeBody_ok ht
  obtain ⟨-, -, hx, raw, hraw⟩ := decodeSymbols_ok hdec
  have hcnt := regroup_cnt_lt (by decide) hx
  have hfits : syms.length ≤ Config.ICAP := by
    calc syms.length = body.length := charsToSymbols_length hsyms
      _ ≤ s.ilen.toNat := by simpa using splitText_length hbody
      _ ≤ Config.ICAP := hbad.1
  have hrawFits : r.groups.length ≤ Config.OCAP := (checkRaw_ok_length hraw).trans_le (by decide)
  exact (((h.withRg _ (by omega)).withCk _).withScratch 8 hfits hrawFits).out_done hr hrawFits true

theorem commandBody_keeps_inv {i : Instr} (h : s.Inv) (hr : s.ready = true) (hbad : operandsBad i s = false)
    (ht : commandBody i s = .ok t) : t.Inv := by
  cases i with
  | aEnc => exact aEncBody_keeps_inv h hr hbad ht
  | aDec => exact aDecBody_keeps_inv h hr hbad ht
  | rg85 pad => exact rg85Body_keeps_inv h hr hbad ht
  | rg58 pad => exact rg58Body_keeps_inv h hr hbad ht
  | ckGen => exact ckGenBody_keeps_inv h hr ht
  | ckVfy => exact ckVfyBody_keeps_inv h hr ht
  | encode nopfx => exact encodeBody_keeps_inv h hr hbad ht
  | decode => exact decodeBody_keeps_inv h hr hbad ht

theorem exec_keeps_inv {i : Instr} (h : s.Inv) (ht : exec i s = .next t) : t.Inv := by
  rw [exec_eq_command] at ht
  obtain ⟨hr, rfl⟩ | ⟨hr, -, rfl⟩ | ⟨hr, -, e, -, rfl⟩ | ⟨hr, hbad, hbody⟩ := command_cases ht
  · exact h.reportNotReady hr
  · exact h.raise hr .badOperand
  · exact h.raise hr e
  · exact commandBody_keeps_inv h hr hbad hbody

/-! ### Every step keeps the invariant -/

theorem issueCommand_keeps_inv {v : Byte} (h : s.Inv) (ht : issueCommand v s = .next t) : t.Inv := by
  obtain ⟨hr, rfl⟩ | ⟨hr, rfl⟩ | ⟨i, -, hexec⟩ := issueCommand_cases ht
  · exact h.reportNotReady hr
  · exact h.raise hr .illegalCommand
  · exact exec_keeps_inv h hexec

theorem hostWrite_keeps_inv {a : HostAddr} {v : Byte} (h : s.Inv) (ht : hostWrite a v s = .next t) : t.Inv := by
  obtain hcmd | rfl | rfl | ⟨b, hb, rfl⟩ | rfl := hostWrite_cases ht
  · exact issueCommand_keeps_inv h hcmd
  · exact h.withPlen v
  · exact h.withIlen v
  · exact h.memWrite hb v
  · exact h

theorem runEvent_keeps_inv {e : Event} (h : s.Inv) (ht : runEvent e s = .next t) : t.Inv := by
  cases e with
  | hostWrite a v => exact hostWrite_keeps_inv h ht
  | hostRead a => cases ht; exact h.hostRead a
  | reset => cases ht; exact resetEvent_inv s
  | initialiser => cases ht; exact h.initIfEnabled

theorem step_keeps_inv (h : s.Inv) (ht : step s = .next t) : t.Inv := by
  cases he : s.events with
  | nil => rw [step_of_no_events he] at ht; cases ht; exact h.initIfEnabled
  | cons e rest => exact runEvent_keeps_inv (h.withEvents rest) (step_of_event he ▸ ht)

end

/-! ### Runs -/

theorem runSteps_succ {s t : State} (h : step s = .next t) (n : Nat) : runSteps (n + 1) s = runSteps n t := by
  simp [runSteps, h]

theorem runSteps_keeps_inv (n : Nat) {s : State} (h : s.Inv) : ∃ t, runSteps n s = .next t ∧ t.Inv := by
  induction n generalizing s with
  | zero => exact ⟨s, rfl, h⟩
  | succ n ih =>
    obtain ⟨u, hu⟩ := step_answers_next s
    rw [runSteps_succ hu]
    exact ih (step_keeps_inv h hu)

/-- Settles O18, by induction on the number of steps: each one answers and keeps the invariant. -/
theorem everyRunFromASafeStateIsSafe : Obligations.EveryRunFromASafeStateIsSafe := by
  unfold Obligations.EveryRunFromASafeStateIsSafe
  exact fun _ h n => runSteps_keeps_inv n h

/-- Settles O7: a command is the common steps around its pseudocode, which answer in every case; so does every event. -/
theorem blockIsNeverStuck : Obligations.BlockIsNeverStuck := by
  unfold Obligations.BlockIsNeverStuck
  exact ⟨step_answers_next, exec_answers_next⟩

end Sys2Proof.Machine
end

section
/-! The state of the block (10_state.md): what a command can do to it and what it keeps, when `READY` changes, the reset
values, the invariant, the reverse table, and the range of `RG.CNT`. -/

namespace Sys2Proof.Machine

/-! ### How any command ends, and what it keeps -/

/-- The command writes `RG.ACC` and `RG.CNT` when it succeeds (R32). -/
def usesRg : Instr → Bool
  | .rg85 _ | .rg58 _ | .encode _ | .decode => true
  | .aEnc | .aDec | .ckGen | .ckVfy => false

/-- The command writes `CK.C` when it succeeds (R33). -/
def usesCk : Instr → Bool
  | .ckGen | .ckVfy | .encode _ | .decode => true
  | .aEnc | .aDec | .rg85 _ | .rg58 _ => false

/-- The command writes the assembler's scratch sequences and stage number when it succeeds (R34). -/
def usesScratch : Instr → Bool
  | .encode _ | .decode => true
  | .aEnc | .aDec | .rg85 _ | .rg58 _ | .ckGen | .ckVfy => false

/-- What a successful command gives `VOK` (R31): `DECODE` 1, `CK_VFY` its verdict, every other command 0. -/
def verdict : Instr → State → Bool
  | .decode, _ => true
  | .ckVfy, s => decide (polymod (expand s.prefixItems ++ s.inputSymbols) = 0#40)
  | .aEnc, _ | .aDec, _ | .rg85 _, _ | .rg58 _, _ | .ckGen, _ | .encode _, _ => false

theorem verdict_eq_true_iff (i : Instr) (s : State) :
    verdict i s = true ↔
      i = .decode ∨ i = .ckVfy ∧ polymod (expand s.prefixItems ++ s.inputSymbols) = 0#40 := by
  cases i <;> simp [verdict]

/-- What a command keeps of `s` in `u`: the inputs (R36), and the working registers that it does not use (log 8). -/
structure KeepsUnused (i : Instr) (s u : State) : Prop where
  inputs : KeepsInputs s u
  rg : usesRg i = false → KeepsRg s u
  ck : usesCk i = false → KeepsCk s u
  scratch : usesScratch i = false → KeepsScratch s u

theorem KeepsUnused.refl (i : Instr) (s : State) : KeepsUnused i s s :=
  ⟨.refl s, fun _ => ⟨rfl, rfl⟩, fun _ => rfl, fun _ => ⟨rfl, rfl, rfl⟩⟩

section
variable {i : Instr} {s u : State}

theorem KeepsUnused.withRg (h : KeepsUnused i s u) (hi : usesRg i = true) (acc : BitVec 12) (n : Nat) :
    KeepsUnused i s (u.withRg acc n) :=
  ⟨h.inputs.trans (keepsInputs_withRg u acc n), fun hn => by simp [hi] at hn, h.ck, h.scratch⟩

theorem KeepsUnused.withCk (h : KeepsUnused i s u) (hi : usesCk i = true) (c : CkWord) : KeepsUnused i s (u.withCk c) :=
  ⟨h.inputs.trans (keepsInputs_withCk u c), h.rg, fun hn => by simp [hi] at hn, h.scratch⟩

theorem KeepsUnused.withScratch (h : KeepsUnused i s u) (hi : usesScratch i = true) (xs : List Symbol) (bs : List Byte)
    (n : Nat) : KeepsUnused i s (u.withScratch xs bs n) :=
  ⟨h.inputs.trans (keepsInputs_withScratch u xs bs n), h.rg, h.ck, fun hn => by simp [hi] at hn⟩

theorem KeepsUnused.out_done (h : KeepsUnused i s u) (r : List Byte) (b : Bool) : KeepsUnused i s ((u.out r).done b) :=
  ⟨(h.inputs.trans (keepsInputs_out u r)).trans (keepsInputs_done _ b), h.rg, h.ck, h.scratch⟩

theorem keepsUnused_reportNotReady (i : Instr) (s : State) : KeepsUnused i s s.reportNotReady :=
  have h := reportNotReady_isNotReady s
  ⟨h.keeps, fun _ => h.rg, fun _ => h.ck, fun _ => h.scratch⟩

theorem keepsUnused_raise (i : Instr) (s : State) (e : ErrorCode) : KeepsUnused i s (s.raise e) :=
  have h := raise_failsWith s e
  ⟨h.keeps, fun _ => h.rg, fun _ => h.ck, fun _ => h.scratch⟩

/-- Every command succeeds alike (R195): it sets working registers that it uses, then comes `out`, then `done` with the
command's verdict. -/
theorem commandBody_ok {t : State} (h : commandBody i s = .ok t) :
    ∃ u r, KeepsUnused i s u ∧ t = (u.out r).done (verdict i s) := by
  have h0 := KeepsUnused.refl i s
  cases i with
  | aEnc => cases h; exact ⟨_, _, h0, rfl⟩
  | aDec => obtain ⟨xs, -, rfl⟩ := aDecBody_ok h; exact ⟨_, _, h0, rfl⟩
  | rg85 pad => obtain ⟨r, -, rfl⟩ := rg85Body_ok h; exact ⟨_, _, h0.withRg rfl _ _, rfl⟩
  | rg58 pad => obtain ⟨r, -, rfl⟩ := rg58Body_ok h; exact ⟨_, _, h0.withRg rfl _ _, rfl⟩
  | ckGen => cases h; exact ⟨_, _, h0.withCk rfl _, rfl⟩
  | ckVfy => cases h; exact ⟨_, _, h0.withCk rfl _, rfl⟩
  | encode nopfx =>
    obtain ⟨-, -, r, -, rfl⟩ := encodeBody_ok h
    exact ⟨_, _, ((h0.withRg rfl _ _).withCk rfl _).withScratch rfl _ _ _, rfl⟩
  | decode =>
    obtain ⟨body, syms, r, -, -, -, rfl⟩ := decodeBody_ok h
    exact ⟨_, _, ((h0.withRg rfl _ _).withCk rfl _).withScratch rfl _ _ _, rfl⟩

/-- All that a command can answer: `NotReady`, an error, or its success. -/
theorem exec_cases {t : State} (h : exec i s = .next t) :
    (s.ready = false ∧ t = s.reportNotReady) ∨ (s.ready = true ∧ ∃ e, t = s.raise e) ∨
      (s.ready = true ∧ ∃ u r, KeepsUnused i s u ∧ t = (u.out r).done (verdict i s)) := by
  rw [exec_eq_command] at h
  obtain ⟨hr, rfl⟩ | ⟨hr, -, rfl⟩ | ⟨hr, -, e, -, rfl⟩ | ⟨hr, -, hbody⟩ := command_cases h
  · exact .inl ⟨hr, rfl⟩
  · exact .inr (.inl ⟨hr, _, rfl⟩)
  · exact .inr (.inl ⟨hr, _, rfl⟩)
  · exact .inr (.inr ⟨hr, commandBody_ok hbody⟩)

/-- No exit of a command writes an input or a working register that the command does not use. -/
theorem exec_keepsUnused {t : State} (h : exec i s = .next t) : KeepsUnused i s t := by
  obtain ⟨-, rfl⟩ | ⟨-, e, rfl⟩ | ⟨-, u, r, hu, rfl⟩ := exec_cases h
  · exact keepsUnused_reportNotReady i s
  · exact keepsUnused_raise i s e
  · exact hu.out_done r _

/-- `VOK` after a command (R31): an error clears it, a success writes the verdict. -/
theorem exec_vok_iff {t : State} (hr : s.ready = true) (h : exec i s = .next t) :
    t.vok = true ↔ t.err = 0#4 ∧ verdict i s = true := by
  obtain ⟨hn, -⟩ | ⟨-, e, rfl⟩ | ⟨-, u, r, -, rfl⟩ := exec_cases h
  · simp [hr] at hn
  · simp [e.code_legal.2]
  · simp

end

/-! ### A command written to `CMD` -/

theorem issueCommand_of_decode {v : Byte} {i : Instr} {s : State} (hr : s.ready = true) (hd : decode v = .ok i) :
    issueCommand v s = exec i s := by simp [issueCommand, hr, hd]

theorem hostWrite_cmdAddr (v : Byte) (s : State) : hostWrite Config.cmdAddr v s = issueCommand v s := rfl

theorem step_of_cmd_write {s : State} {v : Byte} {rest : List Event}
    (h : s.events = .hostWrite Config.cmdAddr v :: rest) : step s = issueCommand v { s with events := rest } :=
  (step_of_event h).trans (hostWrite_cmdAddr v _)

theorem hostReadValue_cmdAddr (s : State) : s.hostReadValue Config.cmdAddr = 0#8 := rfl

/-! ### When `READY` changes -/

section
variable {s t : State}

theorem issueCommand_keeps_ready {v : Byte} (h : issueCommand v s = .next t) : t.ready = s.ready := by
  obtain ⟨-, rfl⟩ | ⟨-, rfl⟩ | ⟨i, -, hexec⟩ := issueCommand_cases h
  · exact s.reportNotReady_ready
  · exact s.raise_ready _
  · exact (exec_keepsUnused hexec).inputs.ready

theorem hostWrite_keeps_ready {a : HostAddr} {v : Byte} (h : hostWrite a v s = .next t) : t.ready = s.ready := by
  obtain hcmd | rfl | rfl | ⟨b, -, rfl⟩ | rfl := hostWrite_cases h
  · exact issueCommand_keeps_ready hcmd
  all_goals rfl

theorem resetEvent_ready (s : State) : s.resetEvent.ready = false := by
  simp [State.ready, State.resetEvent, State.reset]

theorem initIfEnabled_ready (s : State) : s.initIfEnabled.ready = true := by
  unfold State.initIfEnabled
  split
  · assumption
  · exact s.init_ready

theorem initIfEnabled_rlut (h : s.ready = false) : s.initIfEnabled.rlut = reverseTable Config.ALPHABET := by
  simp [State.initIfEnabled, h]

/-- All that a step can do to `READY` (R31): keep it, clear it by `Reset`, or set it by `Init`. -/
theorem step_ready_cases (h : step s = .next t) :
    t.ready = s.ready ∨ (∃ rest, s.events = .reset :: rest) ∧ t.ready = false ∨
      (s.events = [] ∨ ∃ rest, s.events = .initialiser :: rest) ∧ t.ready = true ∧
        (s.ready = false → t.rlut = reverseTable Config.ALPHABET) := by
  cases he : s.events with
  | nil =>
    rw [step_of_no_events he] at h; cases h
    exact .inr (.inr ⟨.inl rfl, initIfEnabled_ready s, initIfEnabled_rlut⟩)
  | cons e rest =>
    rw [step_of_event he] at h
    cases e with
    | hostWrite a v => exact .inl (hostWrite_keeps_ready (s := { s with events := rest }) h)
    | hostRead a => cases h; exact .inl rfl
    | reset => cases h; exact .inr (.inl ⟨⟨rest, rfl⟩, resetEvent_ready _⟩)
    | initialiser =>
      cases h
      exact .inr (.inr ⟨.inr ⟨rest, rfl⟩, initIfEnabled_ready _, initIfEnabled_rlut (s := { s with events := rest })⟩)

end

/-! ### The reverse table of an alphabet -/

/-- One turn of `Init`'s loop: `RLUT[ALPHABET[k]] <- k` (R222). -/
def enterSymbol (alphabet : Vector Byte 32) (table : Vector (Option Symbol) 256) (k : Fin 32) :
    Vector (Option Symbol) 256 :=
  table.set alphabet[k].toNat (some (BitVec.ofNat 5 k)) alphabet[k].isLt

theorem reverseTable_eq_foldl (alphabet : Vector Byte 32) :
    reverseTable alphabet = (List.finRange 32).foldl (enterSymbol alphabet) (Vector.replicate 256 none) := rfl

section
variable {alphabet : Vector Byte 32} {c : Byte}

theorem charToSymbol_enterSymbol (table : Vector (Option Symbol) 256) (k : Fin 32) :
    charToSymbol (enterSymbol alphabet table k) c =
      if alphabet[k] = c then some (BitVec.ofNat 5 k) else charToSymbol table c := by
  simp only [charToSymbol, enterSymbol, Vector.getElem_set, BitVec.toNat_inj]

/-- The code of no symbol entered keeps its entry. -/
theorem charToSymbol_foldl_of_forall_ne {ks : List (Fin 32)} (h : ∀ k ∈ ks, alphabet[k] ≠ c)
    (table : Vector (Option Symbol) 256) :
    charToSymbol (ks.foldl (enterSymbol alphabet) table) c = charToSymbol table c := by
  induction ks generalizing table with
  | nil => rfl
  | cons k ks ih =>
    rw [List.forall_mem_cons] at h
    rw [List.foldl_cons, ih h.2, charToSymbol_enterSymbol, if_neg h.1]

/-- With distinct codes no later symbol overwrites an entry. -/
theorem charToSymbol_foldl_of_mem (distinct : ∀ j k : Fin 32, alphabet[j] = alphabet[k] → j = k) {ks : List (Fin 32)}
    {k : Fin 32} (hk : k ∈ ks) (table : Vector (Option Symbol) 256) :
    charToSymbol (ks.foldl (enterSymbol alphabet) table) alphabet[k] = some (BitVec.ofNat 5 k) := by
  induction ks generalizing table with
  | nil => cases hk
  | cons j ks ih =>
    rw [List.foldl_cons]
    by_cases hlater : k ∈ ks
    · exact ih hlater _
    · obtain rfl : k = j := (List.mem_cons.1 hk).resolve_right hlater
      have hne : ∀ j ∈ ks, alphabet[j] ≠ alphabet[k] := fun j hj heq => hlater (distinct j k heq ▸ hj)
      rw [charToSymbol_foldl_of_forall_ne hne, charToSymbol_enterSymbol, if_pos rfl]

theorem charToSymbol_reverseTable_of_forall_ne (h : ∀ k : Fin 32, alphabet[k] ≠ c) :
    charToSymbol (reverseTable alphabet) c = none := by
  rw [reverseTable_eq_foldl, charToSymbol_foldl_of_forall_ne fun k _ => h k]
  simp [charToSymbol]

/-- The table finds each symbol by its code. -/
theorem charToSymbol_reverseTable_getElem (distinct : ∀ j k : Fin 32, alphabet[j] = alphabet[k] → j = k) (x : Symbol) :
    charToSymbol (reverseTable alphabet) (alphabet[x.toNat]'x.isLt) = some x := by
  rw [reverseTable_eq_foldl]
  simpa using charToSymbol_foldl_of_mem distinct (List.mem_finRange x.toFin) (Vector.replicate 256 none)

end

/-! ### What the host reads of `OBUF`'s region -/

/-- The addresses from `0x300` up are those of `OBUF` and the reserved ones after it (R51). -/
theorem locate_of_obuf_region {a : HostAddr} (h : 0x300 ≤ a.toNat) :
    (∃ k, locate a = .obuf k) ∨ locate a = .reserved := by
  have hregion : a.extractLsb' 8 2 = 3#2 := by
    apply BitVec.eq_of_toNat_eq
    simp only [BitVec.extractLsb'_toNat, Nat.shiftRight_eq_div_pow, BitVec.toNat_ofNat]
    omega
  by_cases hk : a.toNat % 256 < Config.OCAP
  · exact .inl ⟨a.toNat % 256, by simp [locate, hregion, hk]⟩
  · exact .inr (by simpa [locate, hregion] using hk)

/-- With `OLEN = 0` every read from `0x300` up gives 0 (R56). -/
theorem hostReadValue_of_olen_zero {s : State} {a : HostAddr} (hs : s.olen = 0#8) (h : 0x300 ≤ a.toNat) :
    s.hostReadValue a = 0#8 := by
  obtain ⟨k, hl⟩ | hl := locate_of_obuf_region h <;> simp [State.hostReadValue, hl, hs]

/-! ### The statements -/

/-- Settles O17: each event keeps the invariant, and so does the initialiser where no event is left. -/
theorem stepKeepsTheInvariant : Obligations.StepKeepsTheInvariant := by
  unfold Obligations.StepKeepsTheInvariant
  exact fun _ _ h ht => step_keeps_inv h ht

/-- Settles O15: a code is entered once, so the fold's entry for it stays; every other code keeps the first entry, none. -/
theorem reverseTableInvertsEveryAlphabet : Obligations.ReverseTableInvertsEveryAlphabet := by
  unfold Obligations.ReverseTableInvertsEveryAlphabet
  intro alphabet distinct c x
  constructor
  · intro hx
    by_cases hc : ∀ k : Fin 32, alphabet[k] ≠ c
    · rw [charToSymbol_reverseTable_of_forall_ne hc] at hx
      cases hx
    · obtain ⟨k, rfl⟩ : ∃ k : Fin 32, alphabet[k] = c := by simpa using hc
      have hk := charToSymbol_reverseTable_getElem distinct (BitVec.ofFin k)
      obtain rfl : BitVec.ofFin k = x := Option.some.inj (hk.symm.trans hx)
      rfl
  · rintro rfl
    exact charToSymbol_reverseTable_getElem distinct x

/-- Settles O19: no exit of a command writes an input. -/
theorem noCommandWritesItsOperands : Obligations.NoCommandWritesItsOperands := by
  unfold Obligations.NoCommandWritesItsOperands
  exact fun _ _ _ h => (exec_keepsUnused h).inputs

/-- Settles O20: an error keeps every working register, a success those that the command does not use. -/
theorem commandKeepsTheWorkingRegistersItDoesNotUse : Obligations.CommandKeepsTheWorkingRegistersItDoesNotUse := by
  unfold Obligations.CommandKeepsTheWorkingRegistersItDoesNotUse
  refine ⟨fun i s t hi h => ?_, fun pad i s t hi h => ?_, fun i s t hi h => ?_⟩
  all_goals have hw := exec_keepsUnused h
  · obtain rfl | rfl := hi <;> exact ⟨hw.rg rfl, hw.ck rfl, hw.scratch rfl⟩
  · obtain rfl | rfl := hi <;> exact ⟨hw.ck rfl, hw.scratch rfl⟩
  · obtain rfl | rfl := hi <;> exact ⟨hw.rg rfl, hw.scratch rfl⟩

/-- Settles O22: of all that a step can do to `READY`, only `Reset` clears it and only `Init` sets it. -/
theorem readyIsSetByInitAndClearedByReset : Obligations.ReadyIsSetByInitAndClearedByReset := by
  unfold Obligations.ReadyIsSetByInitAndClearedByReset
  intro s t h
  obtain hkept | ⟨hreset, ht⟩ | ⟨hinit, ht, htable⟩ := step_ready_cases h
  · exact ⟨fun hs hn => by simp [hkept, hs] at hn, fun hs hn => by simp [hkept, hs] at hn⟩
  · exact ⟨fun _ _ => hreset, fun _ hn => by simp [ht] at hn⟩
  · exact ⟨fun _ hn => by simp [ht] at hn, fun hs _ => ⟨htable hs, hinit⟩⟩

/-- Settles O23: an error clears `VOK`, a success writes the command's verdict. -/
theorem vokIsTheVerdictOfVerifyOrDecode : Obligations.VokIsTheVerdictOfVerifyOrDecode := by
  unfold Obligations.VokIsTheVerdictOfVerifyOrDecode
  intro i s t hr h
  rw [exec_vok_iff hr h, verdict_eq_true_iff]

/-- Settles O4: the event taken is a write to `CMD`, which decodes its value; `CMD` stores nothing. -/
theorem stepRunsTheCommandWrittenToCmd : Obligations.StepRunsTheCommandWrittenToCmd := by
  unfold Obligations.StepRunsTheCommandWrittenToCmd
  exact ⟨fun s v rest i he hr hd => (step_of_cmd_write he).trans (issueCommand_of_decode hr hd), hostReadValue_cmdAddr⟩

/-- Settles O11: `STATUS` is 0 at reset, and so is `OLEN`, which gates every read of `OBUF`. -/
theorem resetStateHasTheStatedValues : Obligations.ResetStateHasTheStatedValues := by
  unfold Obligations.ResetStateHasTheStatedValues
  refine ⟨rfl, rfl, rfl, rfl, rfl, rfl, rfl, ?_⟩
  rintro a (hstatus | hobuf)
  · simp [State.hostReadValue, hstatus, State.reset]
  · exact hostReadValue_of_olen_zero rfl hobuf

/-- Settles O16: each clause holds of the reset values. -/
theorem resetMeetsTheInvariant : Obligations.ResetMeetsTheInvariant := by
  unfold Obligations.ResetMeetsTheInvariant
  exact reset_inv

/-- Settles O42: the loop over the groups leaves `B mod tw` bits waiting, and one more group adds `fw`. -/
theorem regrouperCountFitsItsRegister : Obligations.RegrouperCountFitsItsRegister := by
  unfold Obligations.RegrouperCountFitsItsRegister
  intro fw tw gs g htw
  obtain ⟨-, hcnt⟩ := rgLoop_spec (fw := fw) htw ⟨0, 0⟩ gs htw
  rw [Nat.zero_add] at hcnt
  have hlt := Nat.mod_lt (gs.length * fw) htw
  refine ⟨hcnt ▸ hlt, hcnt, ?_⟩
  show (rgLoop ⟨0, 0⟩ gs).regs.cnt + fw ≤ fw + tw - 1
  omega

end Sys2Proof.Machine
end

section
/-! The memory as the host sees it (20_memory.md): what each address of the map names, what a host write and a host read
do there, the gate of `OBUF`, and that a command's report depends on its operands alone. -/

namespace Sys2Proof.Machine

/-! ### The address map (R51), by the number of an address -/

section
variable {a : HostAddr} {k : Nat}

theorem addr_region (a : HostAddr) : a.extractLsb' 8 2 = BitVec.ofNat 2 (a.toNat / 256) := by
  apply BitVec.eq_of_toNat_eq
  simp [BitVec.extractLsb'_toNat, Nat.shiftRight_eq_div_pow]

theorem addr_eq_ofNat {n : Nat} (h : a.toNat = n) : a = BitVec.ofNat 10 n := by simp [← h]

theorem locate_status (h : a.toNat = 1) : locate a = .status := by rw [addr_eq_ofNat h]; rfl

theorem locate_plen (h : a.toNat = 2) : locate a = .plen := by rw [addr_eq_ofNat h]; rfl

theorem locate_ilen (h : a.toNat = 3) : locate a = .ilen := by rw [addr_eq_ofNat h]; rfl

theorem locate_olen (h : a.toNat = 4) : locate a = .olen := by rw [addr_eq_ofNat h]; rfl

theorem locate_cmd (h : a.toNat = 0) : locate a = .cmd := by rw [addr_eq_ofNat h]; rfl

theorem locate_of_register_region (h : a.toNat / 256 = 0) : locate a =
    if a = Config.cmdAddr then .cmd
    else if a = Config.statusAddr then .status
    else if a = Config.plenAddr then .plen
    else if a = Config.ilenAddr then .ilen
    else if a = Config.olenAddr then .olen
    else .reserved := by simp only [locate, addr_region, h]

theorem locate_of_pfx_region (h : a.toNat / 256 = 1) :
    locate a = if a.toNat % 256 < Config.PCAP then .pfx (a.toNat % 256) else .reserved := by
  simp [locate, addr_region, h]

theorem locate_of_ibuf_region (h : a.toNat / 256 = 2) :
    locate a = if a.toNat % 256 < Config.ICAP then .ibuf (a.toNat % 256) else .reserved := by
  simp [locate, addr_region, h]

theorem locate_of_last_region (h : a.toNat / 256 = 3) :
    locate a = if a.toNat % 256 < Config.OCAP then .obuf (a.toNat % 256) else .reserved := by
  simp [locate, addr_region, h]

theorem locate_pfx (hk : k < Config.PCAP) (h : a.toNat = Config.pfxBase + k) : locate a = .pfx k := by
  have hk' : k < 32 := hk
  have h' : a.toNat = 0x100 + k := h
  rw [locate_of_pfx_region (by omega), show a.toNat % 256 = k by omega, if_pos hk]

theorem locate_ibuf (hk : k < Config.ICAP) (h : a.toNat = Config.ibufBase + k) : locate a = .ibuf k := by
  have hk' : k < 128 := hk
  have h' : a.toNat = 0x200 + k := h
  rw [locate_of_ibuf_region (by omega), show a.toNat % 256 = k by omega, if_pos hk]

theorem locate_obuf (hk : k < Config.OCAP) (h : a.toNat = Config.obufBase + k) : locate a = .obuf k := by
  have hk' : k < 128 := hk
  have h' : a.toNat = 0x300 + k := h
  rw [locate_of_last_region (by omega), show a.toNat % 256 = k by omega, if_pos hk]

/-- The addresses between the registers and `PFX`. -/
theorem locate_reserved_registers (h : 5 ≤ a.toNat) (h' : a.toNat < 0x100) : locate a = .reserved := by
  have hne {n : HostAddr} (hn : n.toNat < 5) : a ≠ n := by
    rintro rfl
    omega
  rw [locate_of_register_region (by omega), if_neg (hne (by decide)), if_neg (hne (by decide)),
    if_neg (hne (by decide)), if_neg (hne (by decide)), if_neg (hne (by decide))]

/-- The addresses of a buffer's region at and above its capacity. -/
theorem locate_reserved_buffers (h : 0x120 ≤ a.toNat ∧ a.toNat < 0x200 ∨ 0x280 ≤ a.toNat ∧ a.toNat < 0x300 ∨
    0x380 ≤ a.toNat) : locate a = .reserved := by
  have hlt := a.isLt
  obtain h | h | h := h
  · rw [locate_of_pfx_region (by omega), if_neg (by simp only [Config.PCAP]; omega)]
  · rw [locate_of_ibuf_region (by omega), if_neg (by simp only [Config.ICAP]; omega)]
  · rw [locate_of_last_region (by omega), if_neg (by simp only [Config.OCAP]; omega)]

/-- The addresses `0x100`-`0x11F` and `0x200`-`0x27F` are those of the items of `PFX` and `IBUF`. -/
theorem locate_input_item (h : 0x100 ≤ a.toNat ∧ a.toNat < 0x120 ∨ 0x200 ≤ a.toNat ∧ a.toNat < 0x280) :
    (∃ k, locate a = .pfx k ∧ Config.pfxBase + k = a.toNat) ∨
      ∃ k, locate a = .ibuf k ∧ Config.ibufBase + k = a.toNat := by
  obtain ⟨hle, hlt⟩ | ⟨hle, hlt⟩ := h <;> obtain ⟨k, hk⟩ := Nat.exists_eq_add_of_le hle
  · exact .inl ⟨k, locate_pfx (by simp only [Config.PCAP]; omega) hk, hk.symm⟩
  · exact .inr ⟨k, locate_ibuf (by simp only [Config.ICAP]; omega) hk, hk.symm⟩

/-! ### What a host write does at each kind of address (R55) -/

theorem hostWrite_plen (h : locate a = .plen) (v : Byte) (s : State) : hostWrite a v s = .next { s with plen := v } := by
  simp [hostWrite, h]

theorem hostWrite_ilen (h : locate a = .ilen) (v : Byte) (s : State) : hostWrite a v s = .next { s with ilen := v } := by
  simp [hostWrite, h]

theorem hostWrite_input_item (h : 0x100 ≤ a.toNat ∧ a.toNat < 0x120 ∨ 0x200 ≤ a.toNat ∧ a.toNat < 0x280) (v : Byte)
    (s : State) : hostWrite a v s = .next (s.memWrite a.toNat v) := by
  obtain ⟨k, hl, hk⟩ | ⟨k, hl, hk⟩ := locate_input_item h <;> simp [hostWrite, hl, hk]

theorem hostWrite_no_effect (h : a.toNat = 1 ∨ 4 ≤ a.toNat ∧ a.toNat < 0x100 ∨ 0x120 ≤ a.toNat ∧ a.toNat < 0x200 ∨
    0x280 ≤ a.toNat) (v : Byte) (s : State) : hostWrite a v s = .next s := by
  have hl : locate a = .status ∨ locate a = .olen ∨ (∃ k, locate a = .obuf k) ∨ locate a = .reserved := by
    obtain h | ⟨h, hlt⟩ | h | h := h
    · exact .inl (locate_status h)
    · obtain h | h := Nat.eq_or_lt_of_le h
      · exact .inr (.inl (locate_olen h.symm))
      · exact .inr (.inr (.inr (locate_reserved_registers h hlt)))
    · exact .inr (.inr (.inr (locate_reserved_buffers (.inl h))))
    · obtain hlt | hle := Nat.lt_or_ge a.toNat 0x300
      · exact .inr (.inr (.inr (locate_reserved_buffers (.inr (.inl ⟨h, hlt⟩)))))
      · exact .inr (.inr (locate_of_obuf_region hle))
  obtain hl | hl | ⟨k, hl⟩ | hl := hl <;> simp [hostWrite, hl]

/-! ### What a host read returns at each kind of address (R55, R56) -/

theorem hostReadValue_input_item (h : 0x100 ≤ a.toNat ∧ a.toNat < 0x120 ∨ 0x200 ≤ a.toNat ∧ a.toNat < 0x280)
    (s : State) : s.hostReadValue a = s.memRead a.toNat := by
  obtain ⟨k, hl, hk⟩ | ⟨k, hl, hk⟩ := locate_input_item h <;> simp [State.hostReadValue, hl, hk]

/-- A read of `OBUF[k]` is gated by `OLEN`. -/
theorem hostReadValue_obuf (hk : k < Config.OCAP) (h : a.toNat = Config.obufBase + k) (s : State) :
    s.hostReadValue a = if k < s.olen.toNat then s.memRead (Config.obufBase + k) else 0#8 := by
  simp [State.hostReadValue, locate_obuf hk h]

theorem hostReadValue_reserved (h : locate a = .reserved) (s : State) : s.hostReadValue a = 0#8 := by
  simp [State.hostReadValue, h]

theorem obufAddr_toNat (hk : k < Config.OCAP) :
    (BitVec.ofNat 10 (Config.obufBase + k)).toNat = Config.obufBase + k := by
  simp only [Config.OCAP] at hk
  simp only [BitVec.toNat_ofNat, Config.obufBase]
  omega

theorem hostReadValue_obufAddr (hk : k < Config.OCAP) (s : State) :
    s.hostReadValue (BitVec.ofNat 10 (Config.obufBase + k)) =
      if k < s.olen.toNat then s.memRead (Config.obufBase + k) else 0#8 :=
  hostReadValue_obuf hk (obufAddr_toNat hk) s

end

/-! ### The result of a successful command fits `OBUF` (R26, R201) -/

/-- A command whose operands pass the check and whose pseudocode succeeds makes the success exit with a result that fits
`OBUF`. -/
theorem commandBody_succeedsWith {i : Instr} {s t : State} (hbad : operandsBad i s = false)
    (h : commandBody i s = .ok t) : ∃ r, SucceedsWith s t r (verdict i s) ∧ r.length ≤ Config.OCAP := by
  suffices ∃ u r, t = (u.out r).done (verdict i s) ∧ KeepsInputs s u ∧ (∀ a, u.memRead a = s.memRead a) ∧
      r.length ≤ Config.OCAP by
    obtain ⟨u, r, rfl, hu, hm, hlen⟩ := this
    exact ⟨r, out_done_succeedsWith hu hm hlen, hlen⟩
  cases i with
  | aEnc =>
    simp only [operandsBad, State.aEncBad, Bool.or_eq_false_iff, outOver_eq_false_iff] at hbad
    cases h
    exact ⟨_, _, rfl, .refl s, fun _ => rfl, by simpa using hbad.2⟩
  | aDec =>
    simp only [operandsBad, State.aDecBad, Bool.or_eq_false_iff, outOver_eq_false_iff] at hbad
    obtain ⟨xs, hx, rfl⟩ := aDecBody_ok h
    exact ⟨_, _, rfl, .refl s, fun _ => rfl, by simpa [charsToSymbols_length hx] using hbad.2⟩
  | rg85 pad =>
    simp only [operandsBad, State.rg85Bad, Bool.or_eq_false_iff, outOver_eq_false_iff] at hbad
    obtain ⟨r, hx, rfl⟩ := rg85Body_ok h
    exact ⟨_, _, rfl, keepsInputs_withRg s _ _, fun _ => rfl,
      by simpa [regroup_length_eq_count (by decide) hx] using hbad.2⟩
  | rg58 pad =>
    simp only [operandsBad, State.rg58Bad, Bool.or_eq_false_iff, outOver_eq_false_iff] at hbad
    obtain ⟨r, hx, rfl⟩ := rg58Body_ok h
    exact ⟨_, _, rfl, keepsInputs_withRg s _ _, fun _ => rfl,
      by simpa [regroup_length_eq_count (by decide) hx] using hbad.2⟩
  | ckGen => cases h; exact ⟨_, _, rfl, keepsInputs_withCk s _, fun _ => rfl, by simp [Config.OCAP]⟩
  | ckVfy => cases h; exact ⟨_, _, rfl, keepsInputs_withCk s _, fun _ => rfl, Nat.zero_le _⟩
  | encode nopfx =>
    simp only [operandsBad, State.encodeBad, Bool.or_eq_false_iff, plenOver_eq_false_iff] at hbad
    obtain ⟨hlen, -, r, hx, rfl⟩ := encodeBody_ok h
    exact ⟨_, _, rfl, ((keepsInputs_withRg s _ _).trans (keepsInputs_withCk _ _)).trans (keepsInputs_withScratch ..),
      fun _ => rfl, encodedText_length_le hbad.2 (encodedSymbols_length hlen hx)⟩
  | decode =>
    obtain ⟨body, syms, r, -, -, hdec, rfl⟩ := decodeBody_ok h
    obtain ⟨-, -, -, raw, hraw⟩ := decodeSymbols_ok hdec
    exact ⟨_, _, rfl, ((keepsInputs_withRg s _ _).trans (keepsInputs_withCk _ _)).trans (keepsInputs_withScratch ..),
      fun _ => rfl, (checkRaw_ok_length hraw).trans_le (by decide)⟩

/-- In a ready state a command makes an error exit, or the success exit with a result that fits `OBUF`. -/
theorem exec_ready_cases {i : Instr} {s t : State} (hr : s.ready = true) (h : exec i s = .next t) :
    (∃ e, FailsWith s t e) ∨ ∃ r, SucceedsWith s t r (verdict i s) ∧ r.length ≤ Config.OCAP := by
  rw [exec_eq_command] at h
  obtain ⟨hn, -⟩ | ⟨-, -, rfl⟩ | ⟨-, -, e, -, rfl⟩ | ⟨-, hbad, hbody⟩ := command_cases h
  · simp [hr] at hn
  · exact .inl ⟨_, raise_failsWith s _⟩
  · exact .inl ⟨_, raise_failsWith s e⟩
  · exact .inr (commandBody_succeedsWith hbad hbody)

/-! ### What a command reports, and what it depends on (R61, R198) -/

/-- `t` has the operands of `s`: `pfx`, `in` and the reverse table. -/
structure SameOperands (s t : State) : Prop where
  prefixItems : t.prefixItems = s.prefixItems
  inputItems : t.inputItems = s.inputItems
  rlut : t.rlut = s.rlut

/-- `t` reports what `s` reports: `ERR`, `VOK`, `OLEN` and the result sequence. -/
structure SameReport (s t : State) : Prop where
  err : t.err = s.err
  vok : t.vok = s.vok
  olen : t.olen = s.olen
  outputItems : t.outputItems = s.outputItems

/-- Two runs of a command's pseudocode end alike: in the same error, or by the same result and verdict. -/
inductive SameEnding : Except ErrorCode State → Except ErrorCode State → Prop
  | error (e : ErrorCode) : SameEnding (.error e) (.error e)
  | ok (u u' : State) (r : List Byte) (b : Bool) : SameEnding (.ok ((u.out r).done b)) (.ok ((u'.out r).done b))

section
variable {s t : State}

theorem SameOperands.plen (h : SameOperands s t) : t.plen = s.plen :=
  BitVec.eq_of_toNat_eq (by simpa using congrArg List.length h.prefixItems)

theorem SameOperands.ilen (h : SameOperands s t) : t.ilen = s.ilen :=
  BitVec.eq_of_toNat_eq (by simpa using congrArg List.length h.inputItems)

theorem SameOperands.inputSymbols (h : SameOperands s t) : t.inputSymbols = s.inputSymbols :=
  congrArg (List.map symbolOfItem) h.inputItems

/-- `PFX` and `IBUF` lie below `OBUF` whatever the length registers hold, so a kept input is a kept operand. -/
theorem KeepsInputs.sameOperands (h : KeepsInputs s t) : SameOperands s t where
  prefixItems := by
    have hlt := s.plen.isLt
    rw [State.prefixItems, h.plen]
    exact h.items (by simp only [Config.pfxBase, Config.obufBase]; omega)
  inputItems := by
    have hlt := s.ilen.isLt
    rw [State.inputItems, h.ilen]
    exact h.items (by simp only [Config.ibufBase, Config.obufBase]; omega)
  rlut := h.rlut

/-- The operand check depends on the operands only. -/
theorem SameOperands.operandsBad_eq (h : SameOperands s t) (i : Instr) : operandsBad i t = operandsBad i s := by
  have hi : t.ilenOver = s.ilenOver := by rw [State.ilenOver, h.ilen]; rfl
  have hp : t.plenOver = s.plenOver := by rw [State.plenOver, h.plen]; rfl
  have hb : t.badSymbolItem = s.badSymbolItem := by rw [State.badSymbolItem, h.inputItems]; rfl
  cases i <;>
    simp only [operandsBad, State.aEncBad, State.aDecBad, State.rg85Bad, State.rg58Bad, State.ckGenBad,
      State.ckVfyBad, State.encodeBad, State.decodeBad, hi, hp, hb, h.ilen]

/-- The pseudocode of a command reads its operands only. -/
theorem SameOperands.commandBody_sameEnding (h : SameOperands s t) (i : Instr) :
    SameEnding (commandBody i s) (commandBody i t) := by
  cases i with
  | aEnc =>
    simp only [commandBody, aEncBody, h.inputSymbols]
    exact .ok ..
  | aDec =>
    simp only [commandBody, aDecBody, h.inputItems, h.rlut]
    cases charsToSymbols s.rlut s.inputItems with
    | error e => exact .error e
    | ok xs => exact .ok ..
  | rg85 pad =>
    simp only [commandBody, rg85Body, h.inputItems]
    cases regroup 8 5 pad s.inputItems with
    | error e => exact .error e
    | ok r => exact .ok ..
  | rg58 pad =>
    simp only [commandBody, rg58Body, h.inputSymbols]
    cases regroup 5 8 pad s.inputSymbols with
    | error e => exact .error e
    | ok r => exact .ok ..
  | ckGen =>
    simp only [commandBody, ckGenBody, h.prefixItems, h.inputSymbols]
    exact .ok ..
  | ckVfy =>
    simp only [commandBody, ckVfyBody, h.prefixItems, h.inputSymbols]
    exact .ok ..
  | encode nopfx =>
    simp only [commandBody, encodeBody, h.prefixItems, h.inputItems]
    split_ifs
    · exact .error .invalidLength
    · exact .error .unknownAddressType
    all_goals
      cases regroup 8 5 true s.inputItems with
      | error e => exact .error e
      | ok r => exact .ok ..
  | decode =>
    simp only [commandBody, decodeBody, h.prefixItems, h.inputItems, h.rlut]
    cases splitText s.prefixItems s.inputItems with
    | error e => exact .error e
    | ok body =>
      dsimp only
      cases charsToSymbols s.rlut body with
      | error e => exact .error e
      | ok syms =>
        dsimp only
        cases decodeSymbols s.prefixItems syms with
        | error e => exact .error e
        | ok r => exact .ok ..

/-! ### The report after each exit -/

theorem outputItems_of_olen_zero (h : s.olen = 0#8) : s.outputItems = [] := by
  simp [State.outputItems, State.items, h]

/-- The result sequence after the success exit; `OLEN` is the number of items as an 8-bit value. -/
theorem outputItems_out_done (u : State) (r : List Byte) (b : Bool) :
    ((u.out r).done b).outputItems = r.take (r.length % 256) := by
  have hle := Nat.mod_le r.length 256
  refine List.ext_getElem (by simpa [State.outputItems] using hle) fun k hk _ => ?_
  have hk' : k < r.length % 256 := by simpa [State.outputItems] using hk
  rw [List.getElem_take]
  exact (State.getElem_items _ _ _ _ (by simpa using hk')).trans (u.memRead_out_item r k (by omega))

theorem sameReport_raise (s t : State) (e : ErrorCode) : SameReport (s.raise e) (t.raise e) where
  err := by simp
  vok := by simp
  olen := rfl
  outputItems := by rw [outputItems_of_olen_zero rfl, outputItems_of_olen_zero rfl]

theorem sameReport_out_done (u u' : State) (r : List Byte) (b : Bool) :
    SameReport ((u.out r).done b) ((u'.out r).done b) where
  err := by simp
  vok := by simp
  olen := rfl
  outputItems := by rw [outputItems_out_done, outputItems_out_done]

theorem IsNotReady.sameReport {u : State} (h : IsNotReady s t) (h' : IsNotReady t u) : SameReport t u where
  err := h'.err.trans h.err.symm
  vok := h'.vokIs
  olen := h'.olen
  outputItems := by
    rw [State.outputItems, h'.olen]
    exact List.map_congr_left fun k _ => h'.items _

/-- Two ready states with the same operands get the same report from a command. -/
theorem SameOperands.exec_sameReport (h : SameOperands s t) {i : Instr} {s' t' : State}
    (hs : s.ready = true) (ht : t.ready = true) (hs' : exec i s = .next s') (ht' : exec i t = .next t') : SameReport s' t' := by
  rw [exec_eq_command] at hs' ht'
  rw [h.operandsBad_eq i] at ht'
  cases hbad : operandsBad i s with
  | true =>
    rw [command_bad hs hbad] at hs'
    rw [command_bad ht hbad] at ht'
    cases hs'
    cases ht'
    exact sameReport_raise s t _
  | false =>
    have hbody := h.commandBody_sameEnding i
    generalize commandBody i s = x at hs' hbody
    generalize commandBody i t = y at ht' hbody
    cases hbody with
    | error e =>
      rw [command_error hs hbad rfl] at hs'
      rw [command_error ht hbad rfl] at ht'
      cases hs'
      cases ht'
      exact sameReport_raise s t e
    | ok u u' r b =>
      rw [command_ok hs hbad rfl] at hs'
      rw [command_ok ht hbad rfl] at ht'
      cases hs'
      cases ht'
      exact sameReport_out_done u u' r b

/-! ### What the host can read -/

/-- A status word put together from its fields (R29). -/
theorem statusWord_eq_fields : ∀ w : BitVec 8,
    w = w.extractLsb' 4 4 ++ w.extractLsb' 2 2 ++ BitVec.ofBool (w.getLsbD 1) ++ BitVec.ofBool (w.getLsbD 0) := by
  decide +kernel

/-- `STATUS` is its four fields. -/
theorem State.status_eq_of_fields (hready : t.ready = s.ready) (hvok : t.vok = s.vok)
    (hreserved : t.statusReserved = s.statusReserved) (herr : t.err = s.err) : t.status = s.status := by
  simp only [State.ready, State.vok, State.statusReserved, State.err] at hready hvok hreserved herr
  rw [statusWord_eq_fields t.status, hready, hvok, hreserved, herr, ← statusWord_eq_fields]

/-- With the same inputs and the same report the host reads the same at every address. -/
theorem hostReadValue_eq_of_sameReport (hk : KeepsInputs s t) (h : SameReport s t) (a : HostAddr) :
    t.hostReadValue a = s.hostReadValue a := by
  simp only [State.hostReadValue]
  cases hl : locate a with
  | cmd => rfl
  | status => exact State.status_eq_of_fields hk.ready h.vok hk.reserved h.err
  | plen => exact hk.plen
  | ilen => exact hk.ilen
  | olen => exact h.olen
  | pfx k =>
    have hlt := locate_pfx_lt hl
    exact hk.belowObuf _ (by simp only [Config.PCAP, Config.pfxBase, Config.obufBase] at *; omega)
  | ibuf k =>
    have hlt := locate_ibuf_lt hl
    exact hk.belowObuf _ (by simp only [Config.ICAP, Config.ibufBase, Config.obufBase] at *; omega)
  | obuf k =>
    dsimp only
    rw [h.olen]
    split
    next hlt =>
      have hitems := h.outputItems
      simp only [State.outputItems, State.items, h.olen] at hitems
      exact List.map_inj_left.1 hitems k (List.mem_range.2 hlt)
    next => rfl
  | reserved => rfl

end

/-! ### The statements -/

/-- Settles O8, address by address of the map. -/
theorem hostWriteChangesOnlyTheAddressedItem : Obligations.HostWriteChangesOnlyTheAddressedItem := by
  unfold Obligations.HostWriteChangesOnlyTheAddressedItem
  intro s a v rest he
  have hstep : step s = hostWrite a v { s with events := rest } := step_of_event he
  refine ⟨fun h => hstep.trans (hostWrite_plen (locate_plen h) v _),
    fun h => hstep.trans (hostWrite_ilen (locate_ilen h) v _), fun h => ?_,
    fun h => hstep.trans (hostWrite_no_effect h v _)⟩
  exact ⟨_, hstep.trans (hostWrite_input_item h v _), fun b => s.memRead_memWrite a.toNat b v⟩

/-- Settles O9, address by address of the map. -/
theorem hostReadReturnsTheAddressedItem : Obligations.HostReadReturnsTheAddressedItem := by
  unfold Obligations.HostReadReturnsTheAddressedItem
  intro s a rest he
  refine ⟨s.hostReadValue a, step_of_event he, fun h => ?_, fun h => ?_, fun h => ?_, fun h => ?_,
    fun h => hostReadValue_input_item h s, fun h => ?_, fun h => ?_⟩
  · simp [State.hostReadValue, locate_status h]
  · simp [State.hostReadValue, locate_plen h]
  · simp [State.hostReadValue, locate_ilen h]
  · simp [State.hostReadValue, locate_olen h]
  · obtain ⟨k, hk⟩ := Nat.exists_eq_add_of_le h.1
    rw [hostReadValue_obuf (by simp only [Config.OCAP]; omega) hk s, hk, Nat.add_sub_cancel_left]
    rfl
  · obtain h | ⟨hle, hlt⟩ | h := h
    · simp [State.hostReadValue, locate_cmd h]
    · exact hostReadValue_reserved (locate_reserved_registers hle hlt) s
    · exact hostReadValue_reserved (locate_reserved_buffers h) s

/-- Settles O10: the gate is part of a host read; a success writes a result of `OLEN` items, an error clears `OLEN`. -/
theorem outputIsGatedByOlen : Obligations.OutputIsGatedByOlen := by
  unfold Obligations.OutputIsGatedByOlen
  refine ⟨fun s k hk => hostReadValue_obufAddr hk s, fun i s t hr h herr => ?_, fun i s t k hr h herr hk => ?_⟩
  · obtain ⟨e, hf⟩ | ⟨r, hs, hlen⟩ := exec_ready_cases hr h
    · exact absurd (hf.err.symm.trans herr) e.code_legal.2
    · refine ⟨r, hs.vokIs.symm ▸ hs, hlen, fun k hk => ?_⟩
      rw [hostReadValue_obufAddr (hk.trans_le hlen), if_pos (hs.olen ▸ hk)]
      exact hs.items k hk
  · obtain ⟨e, hf⟩ | ⟨r, hs, -⟩ := exec_ready_cases hr h
    · exact hostReadValue_of_olen_zero hf.olen (by rw [obufAddr_toNat hk]; exact Nat.le_add_right _ k)
    · exact absurd hs.err herr

/-- Settles O26: check and pseudocode read the operands only, and each exit sets the whole report. -/
theorem outcomeDependsOnlyOnTheOperands : Obligations.OutcomeDependsOnlyOnTheOperands := by
  unfold Obligations.OutcomeDependsOnlyOnTheOperands
  intro i s s' t t' hs hs' hpfx hin hrlut ht ht'
  have hreport := SameOperands.exec_sameReport ⟨hpfx, hin, hrlut⟩ hs hs' ht ht'
  exact ⟨hreport.err, hreport.vok, hreport.olen, hreport.outputItems⟩

/-- Settles O25: a command keeps its operands, so the second issue finds those of the first and reports the same. -/
theorem repeatingACommandIsIdempotent : Obligations.RepeatingACommandIsIdempotent := by
  unfold Obligations.RepeatingACommandIsIdempotent
  intro i s t u ht hu
  have hst := (exec_keepsUnused ht).inputs
  refine hostReadValue_eq_of_sameReport (exec_keepsUnused hu).inputs ?_
  cases hr : s.ready with
  | true => exact hst.sameOperands.exec_sameReport hr (hst.ready.trans hr) ht hu
  | false =>
    rw [exec_eq_command, command_notReady hr] at ht
    rw [exec_eq_command, command_notReady (hst.ready.trans hr)] at hu
    cases ht
    cases hu
    exact (reportNotReady_isNotReady s).sameReport (reportNotReady_isNotReady _)

end Sys2Proof.Machine
end

section
/-! The command word (30_encoding.md R70 to R75): a legal word is that of its command and every other word is illegal; and
how a word written to `CMD` is issued. -/

namespace Sys2Proof.Machine

/-! ### A word and its fields (R71) -/

theorem wordRoundTrip (i : Instr) : Laws.WordRoundTrip.Statement i := by
  cases i with
  | aEnc => exact Laws.WordRoundTrip.aEnc
  | aDec => exact Laws.WordRoundTrip.aDec
  | rg85 pad => exact Laws.WordRoundTrip.rg85 pad
  | rg58 pad => exact Laws.WordRoundTrip.rg58 pad
  | ckGen => exact Laws.WordRoundTrip.ckGen
  | ckVfy => exact Laws.WordRoundTrip.ckVfy
  | encode nopfx => exact Laws.WordRoundTrip.encode nopfx
  | decode => exact Laws.WordRoundTrip.decode

/-- Cutting a word into fields loses nothing. -/
theorem toWord_fieldsOfWord : ∀ v : BitVec 8, (fieldsOfWord v).toWord = v := by decide +kernel

/-! ### Which fields are legal (R74) -/

theorem illegal?_eq_none_iff (f : CommandFields) : f.illegal? = none ↔
    f.reserved = 0#2 ∧ f.op ≠ 0#4 ∧ ¬8#4 < f.op ∧ (f.pad = true → f.op = 3#4 ∨ f.op = 4#4) ∧
      (f.nopfx = true → f.op = 7#4) := by
  have test_fails {p : Prop} [Decidable p] {why : Illegal} {later : Option Illegal} :
      (if p then some why else later) = none ↔ ¬p ∧ later = none := by
    split <;> simp_all
  simp only [CommandFields.illegal?, test_fails, and_true]
  tauto

/-- The codes that R72 assigns. -/
theorem assigned_op_cases {op : BitVec 4} (hzero : op ≠ 0#4) (hmax : ¬8#4 < op) :
    op = 1#4 ∨ op = 2#4 ∨ op = 3#4 ∨ op = 4#4 ∨ op = 5#4 ∨ op = 6#4 ∨ op = 7#4 ∨ op = 8#4 := by
  bv_omega

/-- Legal fields are those of a command. -/
theorem exists_fields_eq_of_legal {f : CommandFields} (h : f.illegal? = none) : ∃ i : Instr, i.fields = f := by
  obtain ⟨hreserved, hzero, hmax, hpad, hnopfx⟩ := (illegal?_eq_none_iff f).1 h
  obtain ⟨op, pad, nopfx, reserved⟩ := f
  dsimp only at hreserved hzero hmax hpad hnopfx
  obtain rfl | rfl | rfl | rfl | rfl | rfl | rfl | rfl := assigned_op_cases hzero hmax
  · exact ⟨.aEnc, by simp_all [Instr.fields]⟩
  · exact ⟨.aDec, by simp_all [Instr.fields]⟩
  · exact ⟨.rg85 pad, by simp_all [Instr.fields]⟩
  · exact ⟨.rg58 pad, by simp_all [Instr.fields]⟩
  · exact ⟨.ckGen, by simp_all [Instr.fields]⟩
  · exact ⟨.ckVfy, by simp_all [Instr.fields]⟩
  · exact ⟨.encode nopfx, by simp_all [Instr.fields]⟩
  · exact ⟨.decode, by simp_all [Instr.fields]⟩

/-! ### The decoder (R72, R74) -/

theorem decode_of_illegal {v : BitVec 8} {why : Illegal} (h : (fieldsOfWord v).illegal? = some why) :
    decode v = .error why := by simp [decode, h]

theorem decode_of_fields {v : BitVec 8} {i : Instr} (h : fieldsOfWord v = i.fields) : decode v = .ok i := by
  rw [decode, h]
  cases i with
  | rg85 pad => cases pad <;> rfl
  | rg58 pad => cases pad <;> rfl
  | encode nopfx => cases nopfx <;> rfl
  | _ => rfl

theorem decode_encode (i : Instr) : decode (encode i) = .ok i := by
  obtain ⟨-, -, hfields⟩ := wordRoundTrip i
  exact decode_of_fields hfields

/-- A word is illegal, or it is the word of the command that it decodes to. -/
theorem decode_cases (v : BitVec 8) :
    (∃ why, (fieldsOfWord v).illegal? = some why ∧ decode v = .error why) ∨
      ∃ i, (fieldsOfWord v).illegal? = none ∧ decode v = .ok i ∧ encode i = v := by
  cases h : (fieldsOfWord v).illegal? with
  | some why => exact .inl ⟨why, rfl, decode_of_illegal h⟩
  | none =>
    obtain ⟨i, hi⟩ := exists_fields_eq_of_legal h
    obtain ⟨-, hword, -⟩ := wordRoundTrip i
    exact .inr ⟨i, rfl, decode_of_fields hi.symm, by rw [hword, hi, toWord_fieldsOfWord]⟩

theorem decode_eq_ok_iff {v : BitVec 8} {i : Instr} : decode v = .ok i ↔ v = encode i := by
  constructor
  · intro h
    obtain ⟨why, -, herror⟩ | ⟨j, -, hok, hword⟩ := decode_cases v
    · simp [h] at herror
    · obtain rfl : i = j := Except.ok.inj (h.symm.trans hok)
      exact hword.symm
  · rintro rfl
    exact decode_encode i

theorem exists_decode_eq_error_iff {v : BitVec 8} :
    (∃ why, decode v = .error why) ↔ (fieldsOfWord v).illegal? ≠ none := by
  obtain ⟨why, hill, herror⟩ | ⟨i, hleg, hok, -⟩ := decode_cases v
  · simp [hill, herror]
  · simp [hleg, hok]

/-- The word of a row with a flag: the mask leaves out the flag's bit, which is free. -/
theorem eq_padWord_iff : ∀ (v : BitVec 8) (pad : Bool),
    (v = encode (.rg85 pad) ↔ v &&& 0xEF#8 = 0x03#8 ∧ v.getLsbD 4 = pad) ∧
      (v = encode (.rg58 pad) ↔ v &&& 0xEF#8 = 0x04#8 ∧ v.getLsbD 4 = pad) := by decide +kernel

theorem eq_nopfxWord_iff : ∀ (v : BitVec 8) (nopfx : Bool),
    v = encode (.encode nopfx) ↔ v &&& 0xDF#8 = 0x07#8 ∧ v.getLsbD 5 = nopfx := by decide +kernel

/-! ### The issue of a word (R70) -/

theorem issueCommand_illegal {v : Byte} {why : Illegal} {s : State} (hr : s.ready = true) (hd : decode v = .error why) :
    issueCommand v s = .next (s.raise .illegalCommand) := by simp [issueCommand, hr, hd]

theorem decodeTableWord_eq_some_iff {w : Nat} {i : Instr} :
    decodeTableWord 8 w = some i ↔ decode (BitVec.ofNat 8 (w % 2 ^ 8)) = .ok i := by
  have hlt : w % 2 ^ 8 < 256 := Nat.mod_lt w (by decide)
  rw [decodeTableWord, if_pos hlt]
  cases decode (BitVec.ofNat 8 (w % 2 ^ 8)) <;> simp

/-- Taking a queued word's event leaves the state in which it was queued. -/
theorem step_queueCommand (s : State) (v : Byte) : step (s.queueCommand v) = issueCommand v s := step_of_cmd_write rfl

/-! ### The statements -/

/-- Settles O1: a word decodes to a command exactly if it is the command's word, and a row's words are its `match` with the
flag's bit free. -/
theorem wordSelectsItsRowByMaskAndMatch : Obligations.WordSelectsItsRowByMaskAndMatch := by
  unfold Obligations.WordSelectsItsRowByMaskAndMatch
  intro v
  have hmask : v &&& 0xFF#8 = v := BitVec.and_allOnes
  simp only [decode_eq_ok_iff, hmask]
  exact ⟨Iff.rfl, Iff.rfl, fun pad => (eq_padWord_iff v pad).1, fun pad => (eq_padWord_iff v pad).2, Iff.rfl, Iff.rfl,
    eq_nopfxWord_iff v, Iff.rfl⟩

/-- Settles O2: the decoder refuses exactly the words with illegal fields, and the issue of such a word is the error
exit. -/
theorem illegalWordIsReportedAndDoesNothing : Obligations.IllegalWordIsReportedAndDoesNothing := by
  unfold Obligations.IllegalWordIsReportedAndDoesNothing
  refine ⟨fun v => ?_, by decide +kernel, fun s v rest why he hr hd => ?_⟩
  · have hmax : 9#4 ≤ v.extractLsb' 0 4 ↔ 8#4 < v.extractLsb' 0 4 := by bv_omega
    rw [exists_decode_eq_error_iff, Ne, illegal?_eq_none_iff, hmax]
    simp only [fieldsOfWord]
    tauto
  · exact ⟨_, (step_of_cmd_write he).trans (issueCommand_illegal hr hd), raise_failsWith _ _⟩

/-- Settles O3: a command's word has the command's fields, and every legal word is the word of a command. -/
theorem decodeAndEncodeAgree : Obligations.DecodeAndEncodeAgree := by
  unfold Obligations.DecodeAndEncodeAgree
  exact ⟨fun i => ⟨(wordRoundTrip i).1, decode_encode i⟩, fun v i h => (decode_eq_ok_iff.1 h).symm⟩

/-- Settles O5: the initialiser's step has been taken, and the event in front is the write of the word to `CMD`. -/
theorem placedWordIsRunByTheNextStep : Obligations.PlacedWordIsRunByTheNextStep := by
  unfold Obligations.PlacedWordIsRunByTheNextStep
  intro s w i hw
  have hready := initIfEnabled_ready s
  exact ⟨hready, (step_queueCommand _ _).trans (issueCommand_of_decode hready (decodeTableWord_eq_some_iff.1 hw))⟩

end Sys2Proof.Machine
end

section
/-! The regrouper as a bit stream (42_bit_regrouper.md R121 to R124): no loop of it loses, adds or reorders a bit. A
sequence of groups and the bits that wait in `RG.ACC` are both read as lists of bits, most significant first (R11). -/

namespace Sys2Proof.Machine

/-! ### Bits, most significant first -/

/-- The low `n` bits of a word, most significant first. -/
def lowBits {w : Nat} : Nat → BitVec w → List Bool
  | 0, _ => []
  | n + 1, x => x.getLsbD n :: lowBits n x

/-- The bit stream of a sequence of groups (R11). -/
def bitStream {w : Nat} (gs : List (BitVec w)) : List Bool := gs.flatMap (lowBits w)

section
variable {w : Nat}

@[simp] theorem lowBits_length (n : Nat) (x : BitVec w) : (lowBits n x).length = n := by
  induction n with
  | zero => rfl
  | succ n ih => simp [lowBits, ih]

theorem lowBits_congr {w' n : Nat} {x : BitVec w} {y : BitVec w'} (h : ∀ i, i < n → x.getLsbD i = y.getLsbD i) :
    lowBits n x = lowBits n y := by
  induction n with
  | zero => rfl
  | succ n ih => rw [lowBits, lowBits, h n (Nat.lt_succ_self n), ih fun i hi => h i (hi.trans (Nat.lt_succ_self n))]

/-- The low `m + n` bits are the `m` upper ones of them, then the low `n`. -/
theorem lowBits_add (m n : Nat) (x : BitVec w) : lowBits (m + n) x = lowBits m (x >>> n) ++ lowBits n x := by
  induction m with
  | zero => rw [Nat.zero_add]; rfl
  | succ m ih => rw [Nat.succ_add, lowBits, lowBits, ih, BitVec.getLsbD_ushiftRight, Nat.add_comm n m, List.cons_append]

theorem lowBits_of_forall_false {n : Nat} {x : BitVec w} (h : ∀ i, i < n → x.getLsbD i = false) :
    lowBits n x = List.replicate n false := by
  induction n with
  | zero => rfl
  | succ n ih =>
    rw [lowBits, h n (Nat.lt_succ_self n), ih fun i hi => h i (hi.trans (Nat.lt_succ_self n)), List.replicate_succ]

theorem lowBits_getD (n i : Nat) (x : BitVec w) (hi : i < n) : (lowBits n x).getD i false = x.getLsbD (n - 1 - i) := by
  induction n generalizing i with
  | zero => omega
  | succ n ih =>
    cases i with
    | zero => simp [lowBits]
    | succ i =>
      rw [lowBits, List.getD_cons_succ, ih i (by omega)]
      congr 1
      omega

@[simp] theorem bitStream_nil : bitStream ([] : List (BitVec w)) = [] := rfl

@[simp] theorem bitStream_cons (g : BitVec w) (gs : List (BitVec w)) : bitStream (g :: gs) = lowBits w g ++ bitStream gs :=
  rfl

@[simp] theorem bitStream_append (gs hs : List (BitVec w)) : bitStream (gs ++ hs) = bitStream gs ++ bitStream hs := by
  simp [bitStream]

@[simp] theorem bitStream_length (gs : List (BitVec w)) : (bitStream gs).length = gs.length * w := by
  induction gs with
  | nil => simp
  | cons g gs ih => rw [bitStream_cons, List.length_append, lowBits_length, ih, List.length_cons, Nat.succ_mul, Nat.add_comm]

/-- The stream bits in which the statements speak are the items of the bit stream. -/
theorem bitStream_getD (hw : 0 < w) (gs : List (BitVec w)) (n : Nat) : (bitStream gs).getD n false = streamBit gs n := by
  induction gs generalizing n with
  | nil => simp [streamBit]
  | cons g gs ih =>
    rw [bitStream_cons]
    obtain hn | hn := Nat.lt_or_ge n w
    · rw [List.getD_append _ _ _ _ (by simpa using hn), lowBits_getD _ _ _ hn]
      simp [streamBit, Nat.div_eq_of_lt hn, Nat.mod_eq_of_lt hn]
    · rw [List.getD_append_right _ _ _ _ (by simpa using hn), lowBits_length, ih]
      simp [streamBit, Nat.div_eq_sub_div hw hn, ← Nat.mod_eq_sub_mod hn]

end

/-! ### The regrouper -/

section
variable {fw tw : Nat}

/-- The bits that wait in the accumulator (R32): its low `RG.CNT` bits. -/
def RgRegs.waiting (r : RgRegs fw tw) : List Bool := lowBits r.cnt r.acc

/-- Absorbing a group puts its bits behind the waiting ones; none is shifted out, as fewer than `tw` were waiting. -/
theorem rgAbsorb_waiting {r : RgRegs fw tw} (h : r.cnt < tw) (g : BitVec fw) :
    (rgAbsorb r g).waiting = r.waiting ++ lowBits fw g := by
  show lowBits (r.cnt + fw) (rgAbsorb r g).acc = _
  rw [lowBits_add]
  congr 1
  · refine lowBits_congr fun i hi => ?_
    have hpos : fw + i < fw + tw - 1 := by omega
    simp [rgAbsorb, hpos, show i < fw + tw - 1 by omega]
  · refine lowBits_congr fun i hi => ?_
    have hpos : i < fw + tw - 1 := by omega
    simp [rgAbsorb, hpos, hi]

/-- The emitted groups are the front of the waiting bits. -/
theorem rgEmit_bits (fuel : Nat) (r : RgRegs fw tw) :
    bitStream (rgEmit fuel r).groups ++ (rgEmit fuel r).regs.waiting = r.waiting := by
  induction fuel generalizing r with
  | zero => simp [rgEmit]
  | succ fuel ih =>
    unfold rgEmit
    split
    next hle =>
      have hgroup : lowBits tw ((r.acc >>> (r.cnt - tw)).setWidth tw) = lowBits tw (r.acc >>> (r.cnt - tw)) :=
        lowBits_congr fun i hi => by simp [hi]
      calc bitStream (_ :: (rgEmit fuel ⟨r.acc, r.cnt - tw⟩).groups) ++ (rgEmit fuel ⟨r.acc, r.cnt - tw⟩).regs.waiting
        _ = lowBits tw (r.acc >>> (r.cnt - tw)) ++ lowBits (r.cnt - tw) r.acc := by
          rw [bitStream_cons, List.append_assoc, ih, hgroup]
          rfl
        _ = r.waiting := by rw [← lowBits_add, Nat.add_sub_cancel' hle]; rfl
    next => simp

/-- Over a whole input, the groups and the bits left waiting are the bits that were waiting and came in. -/
theorem rgLoop_bits (htw : 0 < tw) {r : RgRegs fw tw} (h : r.cnt < tw) (gs : List (BitVec fw)) :
    bitStream (rgLoop r gs).groups ++ (rgLoop r gs).regs.waiting = r.waiting ++ bitStream gs := by
  induction gs generalizing r with
  | nil => simp [rgLoop]
  | cons g gs ih =>
    let e := rgEmit (rgAbsorb r g).cnt (rgAbsorb r g)
    have hcnt : e.regs.cnt < tw := (rgEmit_spec htw _ _ (Nat.le_refl _)).2.2 ▸ Nat.mod_lt _ htw
    calc bitStream (e.groups ++ (rgLoop e.regs gs).groups) ++ (rgLoop e.regs gs).regs.waiting
      _ = bitStream e.groups ++ e.regs.waiting ++ bitStream gs := by
        rw [bitStream_append, List.append_assoc, ih hcnt, List.append_assoc]
      _ = r.waiting ++ bitStream (g :: gs) := by
        rw [rgEmit_bits, rgAbsorb_waiting h, List.append_assoc, bitStream_cons]

/-- The last group of R124: the `cnt` waiting bits, then zeros. -/
theorem lowBits_lastGroup {w cnt : Nat} (acc : BitVec w) (hw : tw ≤ w) (hcnt : cnt ≤ tw) :
    lowBits tw ((acc <<< (tw - cnt)).setWidth tw) = lowBits cnt acc ++ List.replicate (tw - cnt) false := by
  have hsplit := lowBits_add cnt (tw - cnt) ((acc <<< (tw - cnt)).setWidth tw)
  rw [Nat.add_sub_cancel' hcnt] at hsplit
  rw [hsplit]
  congr 1
  · refine lowBits_congr fun i hi => ?_
    have hpos : tw - cnt + i < tw := by omega
    simp [hpos, hpos.trans_le hw, show i < w by omega]
  · exact lowBits_of_forall_false fun i hi => by simp [hi]

/-- With padding the groups are the input's bit stream, filled up with zeros (R122, R124). -/
theorem regroup_pad_bits (hfw : 0 < fw) (htw : 0 < tw) {gs : List (BitVec fw)} {r : Regrouped fw tw}
    (h : regroup fw tw true gs = .ok r) : ∃ z, bitStream r.groups = bitStream gs ++ List.replicate z false := by
  have hbits : bitStream (rgLoop ⟨0, 0⟩ gs).groups ++ (rgLoop ⟨0, 0⟩ gs).regs.waiting = bitStream gs :=
    rgLoop_bits (r := ⟨0, 0⟩) htw htw gs
  have hcnt : (rgLoop ⟨0, 0⟩ gs).regs.cnt < tw := (rgLoop_spec (fw := fw) htw ⟨0, 0⟩ gs htw).2 ▸ Nat.mod_lt _ htw
  simp only [regroup, if_true] at h
  generalize rgLoop (tw := tw) ⟨0, 0⟩ gs = e at h hbits hcnt
  split at h <;> cases h
  next hpos =>
    refine ⟨tw - e.regs.cnt, ?_⟩
    rw [bitStream_append, bitStream_cons, bitStream_nil, List.append_nil, lowBits_lastGroup _ (by omega) hcnt.le,
      ← List.append_assoc, ← hbits]
    rfl
  next hzero =>
    have hnone : r.regs.waiting = [] := by
      rw [RgRegs.waiting, Nat.eq_zero_of_not_pos hzero]
      rfl
    exact ⟨0, by simpa [hnone] using hbits⟩

/-- Stream bit by stream bit: with padding `regroup` keeps the input's stream bits, and every later one is 0. -/
theorem regroup_pad_streamBit (hfw : 0 < fw) (htw : 0 < tw) {gs : List (BitVec fw)} {r : Regrouped fw tw}
    (h : regroup fw tw true gs = .ok r) (n : Nat) :
    streamBit r.groups n = if n < gs.length * fw then streamBit gs n else false := by
  obtain ⟨z, hz⟩ := regroup_pad_bits hfw htw h
  rw [← bitStream_getD htw, hz, ← bitStream_getD hfw]
  split
  next hn => exact List.getD_append _ _ _ _ (by simpa using hn)
  next hn =>
    rw [List.getD_append_right _ _ _ _ (by simpa using hn), List.getD_eq_getElem?_getD,
      List.getElem?_getD_replicate_default_eq]

/-- Bit `k` of group `j`, found in the stream. -/
theorem streamBit_group {w k : Nat} (gs : List (BitVec w)) (j : Nat) (hk : k < w) :
    streamBit gs (w * j + (w - 1 - k)) = (gs.getD j 0).getLsbD k := by
  have hlt : w - 1 - k < w := by omega
  rw [streamBit, Nat.mul_add_div (by omega), Nat.mul_add_mod, Nat.div_eq_of_lt hlt, Nat.mod_eq_of_lt hlt,
    show w - 1 - (w - 1 - k) = k by omega, Nat.add_zero]

end

end Sys2Proof.Machine
end

section
/-! The text of an encoded address (30_encoding.md R81, R82): the checksum symbols and the payload characters. -/

namespace Sys2Proof.Machine

/-! ### The checksum symbols (R82) -/

theorem cksyms_getD (m : CkWord) {j : Nat} (hj : j < 8) : (cksyms m).getD j 0#5 = m.extractLsb' (35 - 5 * j) 5 := by
  simp [cksyms, hj]

/-! ### The payload characters of an encoded address (R81) -/

section
variable {s t : State}

/-- A command that leaves `ERR` at 0 passed its operand check, and its pseudocode ended in `t`. -/
theorem exec_success {i : Instr} (hr : s.ready = true) (h : exec i s = .next t) (herr : t.err = 0#4) :
    operandsBad i s = false ∧ commandBody i s = .ok t := by
  rw [exec_eq_command] at h
  obtain ⟨hn, -⟩ | ⟨-, -, rfl⟩ | ⟨-, -, e, -, rfl⟩ | ⟨-, hbad, hbody⟩ := command_cases h
  · simp [hr] at hn
  · simp [ErrorCode.code_legal] at herr
  · simp [ErrorCode.code_legal] at herr
  · exact ⟨hbad, hbody⟩

/-- With `nopfx = 1` the result of `ENCODE` starts with the characters of the regrouped raw address. -/
theorem encode_nopfx_payload (hr : s.ready = true) (h : exec (.encode true) s = .next t) (herr : t.err = 0#4) :
    s.ilen.toNat = Config.RAW_LEN ∧ ∃ r, regroup 8 5 true s.inputItems = .ok r ∧
      ∀ j, j < 34 → t.memRead (Config.obufBase + j) = symbolToChar (r.groups.getD j 0) := by
  obtain ⟨hlen, -, r, hreg, rfl⟩ := encodeBody_ok (exec_success hr h herr).2
  refine ⟨by simpa using hlen, r, hreg, fun j hj => ?_⟩
  have hgroups : r.groups.length = 34 := by rw [regroup_length_eq_count (by decide) hreg, hlen]; rfl
  have htext : j < (encodedText true s r).length := by simp [encodedText, encodedSymbols_length hlen hreg]; omega
  rw [State.memRead_done, State.memRead_out_item _ _ _ htext]
  simp [encodedText, encodedSymbols, hgroups, hj]

/-- The stream bits of `in`, found in `IBUF`. -/
theorem streamBit_inputItems {n : Nat} (hn : n < s.ilen.toNat * 8) :
    streamBit s.inputItems n = (s.memRead (Config.ibufBase + n / 8)).getLsbD (7 - n % 8) := by
  have hitem : n / 8 < s.ilen.toNat := by omega
  rw [streamBit, List.getD_eq_getElem _ _ (by simpa using hitem)]
  congr 1
  exact s.getElem_items _ _ _ hitem

end

/-! ### The statements -/

/-- Settles O51: the payload symbols are the padded regrouping of the raw address, whose stream bits are the raw
address's and then zeros. -/
theorem payloadBitsAreTheRawAddressBits : Obligations.PayloadBitsAreTheRawAddressBits := by
  unfold Obligations.PayloadBitsAreTheRawAddressBits
  intro s t hr h herr j hj
  obtain ⟨hlen, r, hreg, hchars⟩ := encode_nopfx_payload hr h herr
  have hlen' : s.ilen.toNat = 21 := hlen
  refine ⟨r.groups.getD j 0, hchars j hj, fun k hk => ?_⟩
  calc (r.groups.getD j 0).getLsbD k
    _ = streamBit r.groups (5 * j + (4 - k)) := (streamBit_group r.groups j hk).symm
    _ = if 5 * j + (4 - k) < 168 then streamBit s.inputItems (5 * j + (4 - k)) else false := by
      rw [regroup_pad_streamBit (by decide) (by decide) hreg, s.inputItems_length, hlen']
    _ = _ := if_ctx_congr Iff.rfl (fun hn => streamBit_inputItems (by omega)) fun _ => rfl

/-- Settles O43: symbol `j` is cut out of `m` from bit `35 - 5j` upwards. -/
theorem checksumSymbolsAreTheBitsOfTheChecksum : Obligations.ChecksumSymbolsAreTheBitsOfTheChecksum := by
  unfold Obligations.ChecksumSymbolsAreTheBitsOfTheChecksum
  refine fun m => ⟨cksyms_length m, fun j k hj hk => ?_⟩
  rw [cksyms_getD m hj, BitVec.getLsbD_extractLsb', decide_eq_true hk, Bool.true_and]

end Sys2Proof.Machine
end

section
/-! The alphabet codec (41_alphabet_codec.md): how a command ends, by its operand check and its pseudocode; what `A_ENC` and
`A_DEC` write; and that each undoes the other. -/

namespace Sys2Proof.Machine

/-! ### How any command ends, in the terms of the rules (R195, R196, R199, R201) -/

section
variable {i : Instr} {s t u : State} {r : List Byte} {vok : Bool}

theorem exec_isNotReady (i : Instr) (hr : s.ready = false) : ∃ t, exec i s = .next t ∧ IsNotReady s t :=
  ⟨_, (exec_eq_command i s).trans (command_notReady hr), reportNotReady_isNotReady s⟩

theorem exec_failsWith_badOperand (hr : s.ready = true) (hbad : operandsBad i s = true) :
    ∃ t, exec i s = .next t ∧ FailsWith s t .badOperand :=
  ⟨_, (exec_eq_command i s).trans (command_bad hr hbad), raise_failsWith s _⟩

theorem exec_failsWith_of_body {e : ErrorCode} (hr : s.ready = true) (hbad : operandsBad i s = false)
    (hbody : commandBody i s = .error e) : ∃ t, exec i s = .next t ∧ FailsWith s t e :=
  ⟨_, (exec_eq_command i s).trans (command_error hr hbad hbody), raise_failsWith s e⟩

/-- A pseudocode may set working registers, giving `u`, before its `out` and `done`. -/
theorem exec_succeedsWith_of_body (hr : s.ready = true) (hbad : operandsBad i s = false)
    (hbody : commandBody i s = .ok ((u.out r).done vok)) (hkeeps : KeepsInputs s u)
    (hmem : ∀ a, u.memRead a = s.memRead a) (hlen : r.length ≤ Config.OCAP) :
    ∃ t, exec i s = .next t ∧ SucceedsWith s t r vok :=
  ⟨_, (exec_eq_command i s).trans (command_ok hr hbad hbody), out_done_succeedsWith hkeeps hmem hlen⟩

/-- After the success exit the result sequence is the one put out. -/
theorem SucceedsWith.outputItems (h : SucceedsWith s t r vok) : t.outputItems = r := by
  have hlen : t.outputItems.length = r.length := by simp [State.outputItems, h.olen]
  refine List.ext_getElem hlen fun k _ hk => ?_
  exact (t.getElem_items _ _ _ (h.olen.symm ▸ hk)).trans (h.items k hk)

end

/-! ### The operand checks of the two commands (R105, R106) -/

section
variable {s : State}

theorem aEnc_operandsOk_iff : operandsBad .aEnc s = false ↔
    s.ilen.toNat ≤ Config.ICAP ∧ SymbolInput s ∧ s.ilen.toNat ≤ Config.OCAP := by
  simp only [operandsBad, State.aEncBad, Bool.or_eq_false_iff, ilenOver_eq_false_iff, badSymbolItem_eq_false_iff,
    outOver_eq_false_iff, and_assoc]

theorem aDec_operandsOk_iff : operandsBad .aDec s = false ↔
    s.ilen.toNat ≤ Config.ICAP ∧ s.ilen.toNat ≤ Config.OCAP := by
  simp only [operandsBad, State.aDecBad, Bool.or_eq_false_iff, ilenOver_eq_false_iff, outOver_eq_false_iff]

/-! ### What the two commands answer -/

theorem exec_aEnc_succeedsWith (hr : s.ready = true) (hbad : operandsBad .aEnc s = false) :
    ∃ t, exec .aEnc s = .next t ∧ SucceedsWith s t (s.inputSymbols.map symbolToChar) false := by
  obtain ⟨-, -, hout⟩ := aEnc_operandsOk_iff.1 hbad
  exact exec_succeedsWith_of_body hr hbad rfl (.refl s) (fun _ => rfl) (by simpa using hout)

theorem aDecBody_of_symbols {xs : List Symbol} (h : charsToSymbols s.rlut s.inputItems = .ok xs) :
    commandBody .aDec s = .ok ((s.out (xs.map itemOfSymbol)).done false) := by simp [commandBody, aDecBody, h]

theorem aDecBody_of_error {e : ErrorCode} (h : charsToSymbols s.rlut s.inputItems = .error e) :
    commandBody .aDec s = .error e := by simp [commandBody, aDecBody, h]

theorem exec_aDec_succeedsWith {xs : List Symbol} (hr : s.ready = true) (hbad : operandsBad .aDec s = false)
    (hxs : s.inputItems.map (charToSymbol s.rlut) = xs.map some) :
    ∃ t, exec .aDec s = .next t ∧ SucceedsWith s t (xs.map itemOfSymbol) false := by
  obtain ⟨-, hout⟩ := aDec_operandsOk_iff.1 hbad
  have hok := charsToSymbols_ok_iff.2 hxs
  refine exec_succeedsWith_of_body hr hbad (aDecBody_of_symbols hok) (.refl s) (fun _ => rfl) ?_
  rw [List.length_map, charsToSymbols_length hok, s.inputItems_length]
  exact hout

/-- An `A_DEC` that leaves `ERR` at 0 found a symbol for every item and has written them. -/
theorem exec_aDec_success {t : State} (hr : s.ready = true) (hexec : exec .aDec s = .next t) (herr : t.err = 0#4) :
    s.ilen.toNat ≤ Config.ICAP ∧ ∃ xs : List Symbol, s.inputItems.map (charToSymbol s.rlut) = xs.map some ∧
      t.outputItems = xs.map itemOfSymbol := by
  obtain ⟨hbad, hbody⟩ := exec_success hr hexec herr
  obtain ⟨xs, hok, -⟩ := aDecBody_ok hbody
  have hxs := charsToSymbols_ok_iff.1 hok
  obtain ⟨t', hexec', ht⟩ := exec_aDec_succeedsWith hr hbad hxs
  obtain rfl : t' = t := Host.Outcome.next.inj (hexec'.symm.trans hexec)
  exact ⟨(aDec_operandsOk_iff.1 hbad).1, xs, hxs, ht.outputItems⟩

end

/-! ### Items and symbols (R78), characters and symbols (R104) -/

theorem isSymbolItem_itemOfSymbol : ∀ x : Symbol, isSymbolItem (itemOfSymbol x) = true := by decide +kernel

theorem itemOfSymbol_symbolOfItem : ∀ v : Byte, isSymbolItem v = true → itemOfSymbol (symbolOfItem v) = v := by
  decide +kernel

theorem symbolInput_iff_forall_mem {s : State} : SymbolInput s ↔ ∀ v ∈ s.inputItems, isSymbolItem v = true := by
  rw [← badSymbolItem_eq_false_iff]
  simp [State.badSymbolItem]

/-- No bit of a symbol item is lost with its symbol. -/
theorem inputSymbols_map_itemOfSymbol {s : State} (h : SymbolInput s) :
    s.inputSymbols.map itemOfSymbol = s.inputItems := by
  rw [State.inputSymbols, List.map_map]
  calc s.inputItems.map (itemOfSymbol ∘ symbolOfItem)
    _ = s.inputItems.map id := List.map_congr_left fun v hv =>
      itemOfSymbol_symbolOfItem v (symbolInput_iff_forall_mem.1 h v hv)
    _ = s.inputItems := List.map_id _

/-- The items of symbols are symbol items and hold these symbols. -/
theorem symbolInput_of_itemsOfSymbols {s : State} {xs : List Symbol} (h : s.inputItems = xs.map itemOfSymbol) :
    SymbolInput s ∧ s.inputSymbols = xs :=
  ⟨symbolInput_iff_forall_mem.2 (by simp [h, isSymbolItem_itemOfSymbol]),
    by simp [State.inputSymbols, h, Function.comp_def]⟩

theorem alphabet_distinct : ∀ j k : Fin 32, Config.ALPHABET[j] = Config.ALPHABET[k] → j = k := by decide +kernel

/-- The table that `Init` builds is the inverse of the alphabet. -/
theorem charToSymbol_eq_some_iff {s : State} (h : s.TableBuilt) {c : Byte} {x : Symbol} :
    charToSymbol s.rlut c = some x ↔ symbolToChar x = c := by
  rw [show s.rlut = _ from h]
  exact reverseTableInvertsEveryAlphabet _ alphabet_distinct c x

/-- The symbols that a built table gives are those whose characters the items are. -/
theorem map_charToSymbol_eq_iff {s : State} (h : s.TableBuilt) {cs : List Byte} {xs : List Symbol} :
    cs.map (charToSymbol s.rlut) = xs.map some ↔ xs.map symbolToChar = cs := by
  induction cs generalizing xs with
  | nil => cases xs <;> simp
  | cons c cs ih =>
    cases xs with
    | nil => simp
    | cons x xs => simp [charToSymbol_eq_some_iff h, ih]

/-! ### The statements -/

/-- Settles O28: the operand check is the rule's, and `symbolToChar` cannot fail. -/
theorem aEncWritesTheCharacterOfEachSymbol : Obligations.AEncWritesTheCharacterOfEachSymbol := by
  unfold Obligations.AEncWritesTheCharacterOfEachSymbol
  refine ⟨decode_encode .aEnc, fun s hr => exec_isNotReady _ hr, fun s hr hbad => ?_, fun s hr hicap hocap hsym => ?_⟩
  · refine exec_failsWith_badOperand hr ?_
    rw [← Bool.not_eq_false, aEnc_operandsOk_iff]
    rintro ⟨hicap, hsym, hocap⟩
    obtain h | h | h := hbad
    · exact absurd hicap (Nat.not_le.2 h)
    · exact absurd hocap (Nat.not_le.2 h)
    · exact h hsym
  · have hchars : (s.inputItems.map fun v => symbolToChar (v.extractLsb' 0 5)) = s.inputSymbols.map symbolToChar := by
      simp [State.inputSymbols, symbolOfItem_eq]
    rw [hchars]
    exact exec_aEnc_succeedsWith hr (aEnc_operandsOk_iff.2 ⟨hicap, hsym, hocap⟩)

/-- Settles O29: `RLUT` gives every item a symbol, or some item none and then the loop raises. -/
theorem aDecWritesTheSymbolOfEachCharacter : Obligations.ADecWritesTheSymbolOfEachCharacter := by
  unfold Obligations.ADecWritesTheSymbolOfEachCharacter
  refine ⟨decode_encode .aDec, fun s hr => exec_isNotReady _ hr, fun s hr hbad => ?_, fun s hr hicap hocap hnone => ?_,
    fun s xs hr hicap hocap hxs => ?_⟩
  · refine exec_failsWith_badOperand hr ?_
    rw [← Bool.not_eq_false, aDec_operandsOk_iff]
    omega
  · exact exec_failsWith_of_body hr (aDec_operandsOk_iff.2 ⟨hicap, hocap⟩)
      (aDecBody_of_error (charsToSymbols_error_iff.2 ⟨rfl, hnone⟩))
  · exact exec_aDec_succeedsWith hr (aDec_operandsOk_iff.2 ⟨hicap, hocap⟩) hxs

/-- Settles O36: the built table is the inverse of the alphabet, and a symbol item is the item of its symbol. -/
theorem alphabetCommandsUndoEachOther : Obligations.AlphabetCommandsUndoEachOther := by
  unfold Obligations.AlphabetCommandsUndoEachOther
  refine ⟨fun s hr hicap hsym => ?_, fun s t u hr htable hexec herr hur hin => ?_⟩
  · obtain ⟨t, hexec, ht⟩ := exec_aEnc_succeedsWith hr (aEnc_operandsOk_iff.2 ⟨hicap, hsym, hicap⟩)
    refine ⟨t, hexec, fun u hur htable hin => ?_⟩
    rw [ht.outputItems] at hin
    have hlen : u.ilen.toNat = s.ilen.toNat := by simpa using congrArg List.length hin
    rw [← inputSymbols_map_itemOfSymbol hsym]
    exact exec_aDec_succeedsWith hur (aDec_operandsOk_iff.2 ⟨hlen.trans_le hicap, hlen.trans_le hicap⟩)
      ((map_charToSymbol_eq_iff htable).2 hin.symm)
  · obtain ⟨hicap, xs, hxs, hout⟩ := exec_aDec_success hr hexec herr
    rw [hout] at hin
    obtain ⟨hsym, hsyms⟩ := symbolInput_of_itemsOfSymbols hin
    have hchars := (map_charToSymbol_eq_iff htable).1 hxs
    have hlen : u.ilen.toNat = s.ilen.toNat := by
      rw [← u.inputSymbols_length, ← s.inputItems_length, hsyms, ← hchars, List.length_map]
    rw [← hchars, ← hsyms]
    exact exec_aEnc_succeedsWith hur (aEnc_operandsOk_iff.2 ⟨hlen.trans_le hicap, hsym, hlen.trans_le hicap⟩)

end Sys2Proof.Machine
end

section
/-! The Bit Regrouper (42_bit_regrouper.md): `regroup` without padding as a bit stream, the two round trips, and the commands
`RG85` and `RG58`. -/

namespace Sys2Proof.Machine

/-! ### Bit streams: the bits that are set, and the one sequence of groups that a stream comes from -/

section
variable {w : Nat}

theorem true_mem_lowBits_iff (n : Nat) (x : BitVec w) : true ∈ lowBits n x ↔ ∃ i, i < n ∧ x.getLsbD i = true := by
  induction n with
  | zero => simp [lowBits]
  | succ n ih => simp only [lowBits, List.mem_cons, ih, Nat.exists_lt_succ_right, eq_comm (a := true), or_comm]

theorem setWidth_ne_zero_iff (n : Nat) (x : BitVec w) : x.setWidth n ≠ 0 ↔ true ∈ lowBits n x := by
  rw [true_mem_lowBits_iff, ← not_iff_not, not_not, BitVec.eq_of_getLsbD_eq_iff]
  simp +contextual

theorem eq_of_lowBits_eq {x y : BitVec w} (h : lowBits w x = lowBits w y) : x = y := by
  refine BitVec.eq_of_getLsbD_eq fun i hi => ?_
  have hbit := congrArg (fun bits => bits.getD (w - 1 - i) false) h
  simpa only [lowBits_getD _ _ _ (show w - 1 - i < w by omega), show w - 1 - (w - 1 - i) = i by omega] using hbit

/-- A stream is cut into groups in one way only. -/
theorem bitStream_injective (hw : 0 < w) {gs hs : List (BitVec w)} (h : bitStream gs = bitStream hs) : gs = hs := by
  have hlen : gs.length = hs.length := Nat.eq_of_mul_eq_mul_right hw (by simpa using congrArg List.length h)
  induction gs generalizing hs with
  | nil => exact (List.eq_nil_of_length_eq_zero hlen.symm).symm
  | cons g gs ih =>
    cases hs with
    | nil => cases hlen
    | cons g' hs =>
      obtain ⟨hg, hgs⟩ := List.append_inj h (by simp)
      rw [eq_of_lowBits_eq hg, ih hgs (Nat.succ.inj hlen)]

theorem someBitSet_iff_true_mem_drop (hw : 0 < w) (gs : List (BitVec w)) (lo : Nat) :
    SomeBitSet gs lo (gs.length * w) ↔ true ∈ (bitStream gs).drop lo := by
  simp only [SomeBitSet, ← bitStream_getD hw, List.mem_iff_getElem?, List.getElem?_drop]
  constructor
  · rintro ⟨n, hlo, hn, hbit⟩
    refine ⟨n - lo, ?_⟩
    rw [Nat.add_sub_cancel' hlo]
    have hn' : n < (bitStream gs).length := by simpa using hn
    rw [List.getElem?_eq_getElem hn', ← hbit, List.getD_eq_getElem _ _ hn']
  · rintro ⟨k, hbit⟩
    obtain ⟨hn, -⟩ := List.getElem?_eq_some_iff.1 hbit
    exact ⟨lo + k, Nat.le_add_right lo k, by simpa using hn, by rw [List.getD_eq_getElem?_getD, hbit]; rfl⟩

end

/-! ### `regroup` in terms of the bit stream (R122 to R124) -/

section
variable {fw tw : Nat}

/-- The bits left waiting after the last group are those that fill no group. -/
theorem rgLoop_waiting (htw : 0 < tw) (gs : List (BitVec fw)) :
    (rgLoop (tw := tw) ⟨0, 0⟩ gs).regs.waiting =
      (bitStream gs).drop (gs.length * fw - gs.length * fw % tw) := by
  have hbits := rgLoop_bits (r := ⟨0, 0⟩) htw htw gs
  obtain ⟨hgroups, -⟩ := rgLoop_spec (fw := fw) htw ⟨0, 0⟩ gs htw
  have hfront : gs.length * fw - gs.length * fw % tw = gs.length * fw / tw * tw := by
    have := Nat.div_add_mod' (gs.length * fw) tw
    omega
  rw [hfront, show bitStream gs = _ from hbits.symm]
  exact (List.drop_left' (by rw [bitStream_length, hgroups, Nat.zero_add])).symm

/-- Without padding: the failures of R123, or the groups of the loop. -/
theorem regroup_nopad_eq (htw : 0 < tw) (gs : List (BitVec fw)) :
    regroup fw tw false gs =
      if fw ≤ gs.length * fw % tw ∨ true ∈ (bitStream gs).drop (gs.length * fw - gs.length * fw % tw) then
        .error .invalidPadding
      else .ok (rgLoop ⟨0, 0⟩ gs) := by
  have hcnt := (rgLoop_spec (fw := fw) htw ⟨0, 0⟩ gs htw).2
  have hset := setWidth_ne_zero_iff (rgLoop (tw := tw) ⟨0, 0⟩ gs).regs.cnt (rgLoop (tw := tw) ⟨0, 0⟩ gs).regs.acc
  rw [Nat.zero_add] at hcnt
  rw [← RgRegs.waiting, rgLoop_waiting htw] at hset
  rw [← hcnt] at hset ⊢
  simp only [ite_or, ← hset, regroup, Bool.false_eq_true, if_false]

/-- `regroup` fails only without padding, and then as R123 says. -/
theorem regroup_error_iff (hfw : 0 < fw) (htw : 0 < tw) {pad : Bool} {gs : List (BitVec fw)} {e : ErrorCode} :
    regroup fw tw pad gs = .error e ↔ pad = false ∧ e = .invalidPadding ∧
      (fw ≤ gs.length * fw % tw ∨ SomeBitSet gs (gs.length * fw - gs.length * fw % tw) (gs.length * fw)) := by
  cases pad with
  | true => obtain ⟨r, hr⟩ := regroup_pad_ok fw tw gs; simp [hr]
  | false =>
    rw [regroup_nopad_eq htw, someBitSet_iff_true_mem_drop hfw]
    split
    next h => simp [h, eq_comm]
    next h => simp [h]

/-- Without padding the groups followed by fewer than `fw` zeros are the input's bit stream. -/
theorem regroup_nopad_bits (htw : 0 < tw) {gs : List (BitVec fw)} {r : Regrouped fw tw}
    (h : regroup fw tw false gs = .ok r) :
    ∃ z, z < fw ∧ bitStream gs = bitStream r.groups ++ List.replicate z false := by
  have hbits := rgLoop_bits (r := ⟨0, 0⟩) htw htw gs
  have hwaiting := rgLoop_waiting htw gs
  rw [regroup_nopad_eq htw] at h
  split at h <;> cases h
  next hok =>
    rw [not_or, Nat.not_le, ← hwaiting] at hok
    obtain ⟨hcnt, hzeros⟩ := hok
    refine ⟨_, hcnt, hbits.symm.trans (congrArg _ ?_)⟩
    refine List.eq_replicate_iff.2 ⟨?_, fun b hb => Bool.eq_false_of_not_eq_true fun ht => hzeros (ht ▸ hb)⟩
    rw [hwaiting, List.length_drop, bitStream_length]
    exact Nat.sub_sub_self (Nat.mod_le _ _)

/-- Without padding, an input whose stream is that of some groups and then too few zeros to fill a group of either width is
regrouped to these groups. -/
theorem regroup_nopad_of_bits {gs : List (BitVec fw)} {hs : List (BitVec tw)} {z : Nat} (hz : z < fw)
    (hz' : z < tw) (h : bitStream gs = bitStream hs ++ List.replicate z false) :
    ∃ r, regroup fw tw false gs = .ok r ∧ r.groups = hs := by
  have htw : 0 < tw := by omega
  have hlen : gs.length * fw = hs.length * tw + z := by simpa using congrArg List.length h
  have hmod : gs.length * fw % tw = z := by simp [hlen, Nat.mod_eq_of_lt hz']
  have hrest : (bitStream gs).drop (gs.length * fw - gs.length * fw % tw) = List.replicate z false := by
    rw [h, hmod]
    exact List.drop_left' (by rw [bitStream_length]; omega)
  have hok : regroup fw tw false gs = .ok (rgLoop ⟨0, 0⟩ gs) := by
    rw [regroup_nopad_eq htw, hrest, hmod, if_neg (by simp; omega)]
  refine ⟨_, hok, bitStream_injective htw ?_⟩
  have hbits := rgLoop_bits (r := ⟨0, 0⟩) htw htw gs
  rw [rgLoop_waiting htw, hrest] at hbits
  exact List.append_cancel_right (hbits.trans h)

/-- With padding the groups are the input's bit stream, filled up with zeros to the next whole group. -/
theorem regroup_pad_bits_lt (hfw : 0 < fw) (htw : 0 < tw) {gs : List (BitVec fw)} {r : Regrouped fw tw}
    (h : regroup fw tw true gs = .ok r) :
    ∃ z, z < tw ∧ bitStream r.groups = bitStream gs ++ List.replicate z false := by
  obtain ⟨z, hbits⟩ := regroup_pad_bits hfw htw h
  refine ⟨z, ?_, hbits⟩
  have hlen : r.groups.length * tw = gs.length * fw + z := by simpa using congrArg List.length hbits
  have hceil : r.groups.length * tw ≤ gs.length * fw + (tw - 1) := by
    rw [regroup_length htw h]
    exact Nat.div_mul_le_self _ _
  omega

/-- With padding, the groups whose stream is the input's and then too few zeros to fill a group are the result. -/
theorem regroup_pad_of_bits (hfw : 0 < fw) {gs : List (BitVec fw)} {hs : List (BitVec tw)} {z : Nat} (hz : z < tw)
    (h : bitStream hs = bitStream gs ++ List.replicate z false) :
    ∃ r, regroup fw tw true gs = .ok r ∧ r.groups = hs := by
  have htw : 0 < tw := by omega
  obtain ⟨r, hr⟩ := regroup_pad_ok fw tw gs
  obtain ⟨z', hz', hbits⟩ := regroup_pad_bits_lt hfw htw hr
  have hlen : hs.length * tw = gs.length * fw + z := by simpa using congrArg List.length h
  have hlen' : r.groups.length * tw = gs.length * fw + z' := by simpa using congrArg List.length hbits
  have hsame : z' = z := by
    have hmod : (hs.length * tw + z') % tw = (r.groups.length * tw + z) % tw := congrArg (· % tw) (by omega)
    simpa [Nat.mod_eq_of_lt hz, Nat.mod_eq_of_lt hz'] using hmod
  exact ⟨r, hr, bitStream_injective htw (by rw [hbits, h, hsame])⟩

/-- Regrouping back to groups at least as wide undoes regrouping with padding: the zeros filled in are too few to fill a
group of either width, so they are dropped without a failure. -/
theorem regroup_nopad_undoes_pad (htw : 0 < tw) (hle : tw ≤ fw) {gs : List (BitVec fw)} {r : Regrouped fw tw}
    (h : regroup fw tw true gs = .ok r) : ∃ q, regroup tw fw false r.groups = .ok q ∧ q.groups = gs := by
  obtain ⟨z, hz, hbits⟩ := regroup_pad_bits_lt (htw.trans_le hle) htw h
  exact regroup_nopad_of_bits hz (hz.trans_le hle) hbits

/-- Regrouping with padding fills the zeros in again that regrouping without padding has dropped. -/
theorem regroup_pad_undoes_nopad (htw : 0 < tw) {gs : List (BitVec fw)} {q : Regrouped fw tw}
    (h : regroup fw tw false gs = .ok q) : ∃ r, regroup tw fw true q.groups = .ok r ∧ r.groups = gs := by
  obtain ⟨z, hz, hbits⟩ := regroup_nopad_bits htw h
  exact regroup_pad_of_bits htw hz hbits

end

/-! ### `RG85` and `RG58`: the operand checks, the failure and the result (R125, R126, R201) -/

/-- The length of the result of `RG85` (R125). -/
theorem regroupCount_8_5 (pad : Bool) (n : Nat) :
    regroupCount 8 5 pad n = if pad then (8 * n + 4) / 5 else 8 * n / 5 := by rw [regroupCount, Nat.mul_comm n 8]

/-- The length of the result of `RG58` (R126). -/
theorem regroupCount_5_8 (pad : Bool) (n : Nat) :
    regroupCount 5 8 pad n = if pad then (5 * n + 7) / 8 else 5 * n / 8 := by rw [regroupCount, Nat.mul_comm n 5]

section
variable {s : State} {pad : Bool}

theorem rg85_operandsOk_iff : operandsBad (.rg85 pad) s = false ↔
    s.ilen.toNat ≤ Config.ICAP ∧ (if pad then (8 * s.ilen.toNat + 4) / 5 else 8 * s.ilen.toNat / 5) ≤ Config.OCAP := by
  simp only [operandsBad, State.rg85Bad, Bool.or_eq_false_iff, ilenOver_eq_false_iff, outOver_eq_false_iff,
    regroupCount_8_5]

theorem rg58_operandsOk_iff : operandsBad (.rg58 pad) s = false ↔
    s.ilen.toNat ≤ Config.ICAP ∧ SymbolInput s ∧
      (if pad then (5 * s.ilen.toNat + 7) / 8 else 5 * s.ilen.toNat / 8) ≤ Config.OCAP := by
  simp only [operandsBad, State.rg58Bad, Bool.or_eq_false_iff, ilenOver_eq_false_iff, badSymbolItem_eq_false_iff,
    outOver_eq_false_iff, regroupCount_5_8, and_assoc]

/-- Fewer than 8 bits are always left over in groups of 5, so only set bits make `RG85` fail. -/
theorem regroup_inputItems_error_iff {e : ErrorCode} : regroup 8 5 pad s.inputItems = .error e ↔
    pad = false ∧ e = .invalidPadding ∧
      SomeBitSet s.inputItems (8 * s.ilen.toNat - 8 * s.ilen.toNat % 5) (8 * s.ilen.toNat) := by
  have hfew : ¬8 ≤ 8 * s.ilen.toNat % 5 := by omega
  simp only [regroup_error_iff (fw := 8) (tw := 5) (by decide) (by decide), s.inputItems_length,
    Nat.mul_comm s.ilen.toNat 8, hfew, false_or]

theorem regroup_inputSymbols_error_iff {e : ErrorCode} : regroup 5 8 pad s.inputSymbols = .error e ↔
    pad = false ∧ e = .invalidPadding ∧ (5 ≤ 5 * s.ilen.toNat % 8 ∨
      SomeBitSet s.inputSymbols (5 * s.ilen.toNat - 5 * s.ilen.toNat % 8) (5 * s.ilen.toNat)) := by
  simp only [regroup_error_iff (fw := 5) (tw := 8) (by decide) (by decide), s.inputSymbols_length,
    Nat.mul_comm s.ilen.toNat 5]

theorem rg85Body_of_regroup {r : Regrouped 8 5} (h : regroup 8 5 pad s.inputItems = .ok r) :
    commandBody (.rg85 pad) s =
      .ok (((s.withRg r.regs.acc r.regs.cnt).out (r.groups.map itemOfSymbol)).done false) := by
  simp only [commandBody, rg85Body, h]

theorem rg58Body_of_regroup {r : Regrouped 5 8} (h : regroup 5 8 pad s.inputSymbols = .ok r) :
    commandBody (.rg58 pad) s = .ok (((s.withRg r.regs.acc r.regs.cnt).out r.groups).done false) := by
  simp only [commandBody, rg58Body, h]

theorem exec_rg85_failsWith {e : ErrorCode} (hr : s.ready = true) (hbad : operandsBad (.rg85 pad) s = false)
    (h : regroup 8 5 pad s.inputItems = .error e) : ∃ t, exec (.rg85 pad) s = .next t ∧ FailsWith s t e :=
  exec_failsWith_of_body hr hbad (by simp [commandBody, rg85Body, h])

theorem exec_rg58_failsWith {e : ErrorCode} (hr : s.ready = true) (hbad : operandsBad (.rg58 pad) s = false)
    (h : regroup 5 8 pad s.inputSymbols = .error e) : ∃ t, exec (.rg58 pad) s = .next t ∧ FailsWith s t e :=
  exec_failsWith_of_body hr hbad (by simp [commandBody, rg58Body, h])

theorem exec_rg85_succeedsWith {r : Regrouped 8 5} (hr : s.ready = true) (hbad : operandsBad (.rg85 pad) s = false)
    (h : regroup 8 5 pad s.inputItems = .ok r) : ∃ t, exec (.rg85 pad) s = .next t ∧
      SucceedsWith s t (r.groups.map itemOfSymbol) false ∧
      t.olen.toNat = if pad then (8 * s.ilen.toNat + 4) / 5 else 8 * s.ilen.toNat / 5 := by
  have hlen := (regroup_length_eq_count (by decide) h).trans (regroupCount_8_5 ..)
  rw [s.inputItems_length, ← List.length_map itemOfSymbol] at hlen
  obtain ⟨-, hout⟩ := rg85_operandsOk_iff.1 hbad
  obtain ⟨t, hexec, ht⟩ := exec_succeedsWith_of_body hr hbad (rg85Body_of_regroup h)
    (keepsInputs_withRg s _ _) (fun _ => rfl) (hlen.trans_le hout)
  exact ⟨t, hexec, ht, ht.olen.trans hlen⟩

theorem exec_rg58_succeedsWith {r : Regrouped 5 8} (hr : s.ready = true) (hbad : operandsBad (.rg58 pad) s = false)
    (h : regroup 5 8 pad s.inputSymbols = .ok r) : ∃ t, exec (.rg58 pad) s = .next t ∧
      SucceedsWith s t r.groups false ∧
      t.olen.toNat = if pad then (5 * s.ilen.toNat + 7) / 8 else 5 * s.ilen.toNat / 8 := by
  have hlen := (regroup_length_eq_count (by decide) h).trans (regroupCount_5_8 ..)
  rw [s.inputSymbols_length] at hlen
  obtain ⟨-, -, hout⟩ := rg58_operandsOk_iff.1 hbad
  obtain ⟨t, hexec, ht⟩ := exec_succeedsWith_of_body hr hbad (rg58Body_of_regroup h)
    (keepsInputs_withRg s _ _) (fun _ => rfl) (hlen.trans_le hout)
  exact ⟨t, hexec, ht, ht.olen.trans hlen⟩

end

/-! ### The statements -/

/-- Settles O39: the symbols' stream is the bytes' stream and fewer than 5 zeros, which the way back drops. -/
theorem bytesSurviveRegroupingAndBack : Obligations.BytesSurviveRegroupingAndBack := by
  unfold Obligations.BytesSurviveRegroupingAndBack
  intro b
  obtain ⟨r, hr⟩ := regroup_pad_ok 8 5 b
  obtain ⟨q, hq, hgroups⟩ := regroup_nopad_undoes_pad (by decide) (by decide) hr
  exact ⟨r, q, hr, hq, hgroups⟩

/-- Settles O40: the zeros that the first way drops are fewer than 5, and the way back fills the same ones in. -/
theorem symbolsSurviveRegroupingAndBack : Obligations.SymbolsSurviveRegroupingAndBack := by
  unfold Obligations.SymbolsSurviveRegroupingAndBack
  exact fun xs q hq => regroup_pad_undoes_nopad (by decide) hq

/-- Settles O37, from the count of R122 and the stream of R124. -/
theorem paddedRegroupIsTheBitStream : Obligations.PaddedRegroupIsTheBitStream := by
  unfold Obligations.PaddedRegroupIsTheBitStream
  intro fw tw gs hfw htw
  obtain ⟨r, hr⟩ := regroup_pad_ok fw tw gs
  exact ⟨r, hr, regroup_length htw hr, fun n _ => regroup_pad_streamBit hfw htw hr n⟩

/-- Settles O38: the bits left waiting are the stream's last `B mod tw`, and the groups are the stream before them. -/
theorem unpaddedRegroupIsTheBitStreamOrFails : Obligations.UnpaddedRegroupIsTheBitStreamOrFails := by
  unfold Obligations.UnpaddedRegroupIsTheBitStreamOrFails
  intro fw tw gs hfw htw
  refine ⟨(regroup_error_iff hfw htw).trans (by simp), fun r hr => ⟨regroup_length htw hr, fun n hn => ?_⟩⟩
  obtain ⟨z, -, hbits⟩ := regroup_nopad_bits htw hr
  rw [← bitStream_getD htw, ← bitStream_getD hfw, hbits]
  exact (List.getD_append _ _ _ _ (by rwa [bitStream_length, Nat.mul_comm])).symm

/-- Settles O30: the operand check is the rule's, and `regroup` fails as the rule says or gives the result. -/
theorem rg85RegroupsBytesToSymbols : Obligations.Rg85RegroupsBytesToSymbols := by
  unfold Obligations.Rg85RegroupsBytesToSymbols
  refine ⟨decode_encode (.rg85 false), decode_encode (.rg85 true), fun pad s hr => exec_isNotReady _ hr,
    fun pad s hr hbad => ?_, fun s hr hicap hocap hset => ?_, fun pad s hr hicap hocap hclear => ?_⟩
  · refine exec_failsWith_badOperand hr ?_
    rw [← Bool.not_eq_false, rg85_operandsOk_iff]
    omega
  · exact exec_rg85_failsWith hr (rg85_operandsOk_iff.2 ⟨hicap, hocap⟩)
      (regroup_inputItems_error_iff.2 ⟨rfl, rfl, hset⟩)
  · cases hx : regroup 8 5 pad s.inputItems with
    | error e =>
      obtain ⟨hpad, -, hset⟩ := regroup_inputItems_error_iff.1 hx
      exact absurd hset (hclear hpad)
    | ok r =>
      obtain ⟨t, hexec, ht, holen⟩ := exec_rg85_succeedsWith hr (rg85_operandsOk_iff.2 ⟨hicap, hocap⟩) hx
      exact ⟨r, t, rfl, hexec, ht, holen⟩

/-- Settles O31: the operand check is the rule's, and `regroup` fails as the rule says or gives the result. -/
theorem rg58RegroupsSymbolsToBytes : Obligations.Rg58RegroupsSymbolsToBytes := by
  unfold Obligations.Rg58RegroupsSymbolsToBytes
  refine ⟨decode_encode (.rg58 false), decode_encode (.rg58 true), fun pad s hr => exec_isNotReady _ hr,
    fun pad s hr hbad => ?_, fun s hr hicap hsym hocap hset => ?_, fun pad s hr hicap hsym hocap hclear => ?_⟩
  · refine exec_failsWith_badOperand hr ?_
    rw [← Bool.not_eq_false, rg58_operandsOk_iff]
    rintro ⟨hicap, hsym, hocap⟩
    obtain h | h | h := hbad
    · exact absurd hicap (Nat.not_le.2 h)
    · exact h hsym
    · exact absurd hocap (Nat.not_le.2 h)
  · exact exec_rg58_failsWith hr (rg58_operandsOk_iff.2 ⟨hicap, hsym, hocap⟩)
      (regroup_inputSymbols_error_iff.2 ⟨rfl, rfl, hset⟩)
  · cases hx : regroup 5 8 pad s.inputSymbols with
    | error e =>
      obtain ⟨hpad, -, hfail⟩ := regroup_inputSymbols_error_iff.1 hx
      obtain ⟨hfew, hzero⟩ := hclear hpad
      exact absurd hfail (not_or.2 ⟨Nat.not_le.2 hfew, hzero⟩)
    | ok r =>
      obtain ⟨t, hexec, ht, holen⟩ := exec_rg58_succeedsWith hr (rg58_operandsOk_iff.2 ⟨hicap, hsym, hocap⟩) hx
      exact ⟨r, t, rfl, hexec, ht, holen⟩

/-- Settles O41: at most 128 symbols come out, `RG58` reads them back from the items, and `regroup` gives the bytes. -/
theorem rg58UndoesPaddedRg85 : Obligations.Rg58UndoesPaddedRg85 := by
  unfold Obligations.Rg58UndoesPaddedRg85
  intro s hr hilen
  obtain ⟨r, hx⟩ := regroup_pad_ok 8 5 s.inputItems
  have hok : operandsBad (.rg85 true) s = false := rg85_operandsOk_iff.2 (by simp [Config.ICAP, Config.OCAP]; omega)
  obtain ⟨t, hexec, ht, holen⟩ := exec_rg85_succeedsWith hr hok hx
  refine ⟨t, hexec, fun u hur hin => ?_⟩
  have hlen : u.ilen.toNat = t.olen.toNat := by simpa [State.outputItems] using congrArg List.length hin
  have hfits : u.ilen.toNat ≤ 128 := by rw [hlen, holen, if_pos rfl]; omega
  rw [ht.outputItems] at hin
  obtain ⟨hsym, hsyms⟩ := symbolInput_of_itemsOfSymbols hin
  obtain ⟨q, hq, hgroups⟩ := regroup_nopad_undoes_pad (by decide) (by decide) hx
  have hok' : operandsBad (.rg58 false) u = false :=
    rg58_operandsOk_iff.2 ⟨hfits, hsym, by simp [Config.OCAP]; omega⟩
  obtain ⟨v, hexec', hv, -⟩ := exec_rg58_succeedsWith hur hok' (hsyms ▸ hq)
  exact ⟨v, hexec', hgroups ▸ hv⟩

end Sys2Proof.Machine
end

section
/-! The Checksum Engine (43_checksum_engine.md): the step of the accumulator is linear over GF(2), and with the default
constants it is invertible; what follows for `polymod`, and what `CK_GEN` and `CK_VFY` report. -/

namespace Sys2Proof.Machine

/-! ### The step is linear over GF(2), for any constants (R143) -/

section
variable (gen : Vector CkWord 5)

/-- The shift leaves the low five bits clear, so the symbol that is OR-ed in may as well be XOR-ed in. -/
theorem shiftLeft_or_symbol (c : CkWord) (d : Symbol) :
    (c <<< 5) ||| d.setWidth 40 = (c <<< 5) ^^^ d.setWidth 40 := by
  ext i hi
  by_cases h : i < 5
  · simp [h]
  · simp [h, BitVec.getLsbD_of_ge d i (by omega)]

/-- A step as the XOR of its three parts: the constants fed back, the shifted accumulator, the symbol. -/
theorem ckStep_eq_xor (c : CkWord) (d : Symbol) :
    ckStep gen c d = ckFeedback gen (c.extractLsb' 35 5) 0#40 ^^^ (c <<< 5 ^^^ d.setWidth 40) := by
  rw [ckStep, shiftLeft_or_symbol, ← ckFeedback_xor, BitVec.zero_xor]

theorem ckFeedback_zero_xor (x y : BitVec 5) :
    ckFeedback gen (x ^^^ y) 0#40 = ckFeedback gen x 0#40 ^^^ ckFeedback gen y 0#40 := by
  have select (a b : Bool) (g : CkWord) :
      (if (a ^^ b) then g else 0#40) = (if a then g else 0#40) ^^^ (if b then g else 0#40) := by
    cases a <;> cases b <;> simp
  simp only [ckFeedback_eq, BitVec.getLsbD_xor, select, BitVec.zero_xor]
  ac_rfl

theorem ckStep_xor (c c' : CkWord) (d d' : Symbol) :
    ckStep gen (c ^^^ c') (d ^^^ d') = ckStep gen c d ^^^ ckStep gen c' d' := by
  simp only [ckStep_eq_xor, BitVec.extractLsb'_xor, ckFeedback_zero_xor, BitVec.shiftLeft_xor_distrib,
    BitVec.setWidth_xor]
  ac_rfl

theorem ckRun_xor {v w : List Symbol} (h : v.length = w.length) (c c' : CkWord) :
    ckRun gen (c ^^^ c') (List.zipWith (fun x y => x ^^^ y) v w) = ckRun gen c v ^^^ ckRun gen c' w := by
  induction v generalizing w c c' with
  | nil => cases w with
    | nil => rfl
    | cons y w => simp at h
  | cons x v ih => cases w with
    | nil => simp at h
    | cons y w => simpa [ckStep_xor] using ih (Nat.succ.inj h) (ckStep gen c x) (ckStep gen c' y)

theorem zipWith_xor_zeros (v : List Symbol) :
    List.zipWith (fun x y => x ^^^ y) v (List.replicate v.length 0#5) = v := by
  refine List.ext_getElem (by simp) fun k _ _ => ?_
  rw [List.getElem_zipWith, List.getElem_replicate, BitVec.xor_zero]

/-- The run over `v` is the run over as many zeros, XOR the run over `v` from 0. -/
theorem ckRun_eq_xor_zeros (c : CkWord) (v : List Symbol) :
    ckRun gen c v = ckRun gen 0#40 v ^^^ ckRun gen c (List.replicate v.length 0#5) := by
  rw [← ckRun_xor gen (by simp), zipWith_xor_zeros, BitVec.zero_xor]

/-! ### The checksum symbols are absorbed without feedback (R148) -/

/-- While the top five bits are 0 nothing is fed back. -/
theorem ckStep_of_top_zero {c : CkWord} (h : c.extractLsb' 35 5 = 0#5) (d : Symbol) :
    ckStep gen c d = (c <<< 5) ||| d.setWidth 40 := by
  simp [ckStep, ckFeedback_eq, h]

/-- The first `k` of the eight symbols of `m`, from 0, leave the top `5k` bits of `m` in the accumulator. -/
theorem ckRun_cksyms_take (m : CkWord) {k : Nat} (hk : k ≤ 8) :
    ckRun gen 0#40 ((List.range k).map fun i => m.extractLsb' (35 - 5 * i) 5) = m >>> (40 - 5 * k) := by
  induction k with
  | zero => simp [BitVec.ushiftRight_eq_zero]
  | succ k ih =>
    have htop : (m >>> (40 - 5 * k)).extractLsb' 35 5 = 0#5 := by
      ext i hi
      simp [BitVec.getLsbD_of_ge m (40 - 5 * k + (35 + i)) (by omega)]
    rw [List.range_succ, List.map_append, ckRun_append, ih (by omega), List.map_singleton, ckRun_cons, ckRun_nil,
      ckStep_of_top_zero gen htop]
    ext i hi
    by_cases h : i < 5
    · have hbit : 40 - 5 * (k + 1) = 35 - 5 * k := by omega
      simp [h, hbit]
    · have hbit : 40 - 5 * k + (i - 5) = 40 - 5 * (k + 1) + i := by omega
      simp [h, BitVec.getLsbD_of_ge _ i (show 5 ≤ i by omega), hbit]

theorem ckRun_cksyms (m : CkWord) : ckRun gen 0#40 (cksyms m) = m := by
  rw [cksyms, ckRun_cksyms_take gen m le_rfl]
  simp

end

/-! ### With the default constants the step loses nothing (R143 (e), R150) -/

/-- The low five bits of the default constants are the five unit vectors. -/
theorem ckFeedback_low : ∀ c0 : BitVec 5, (ckFeedback Config.GEN c0 0#40).extractLsb' 0 5 = c0 := by decide +kernel

/-- So the low five bits after a step hold the five bits shifted out, XOR the symbol. -/
theorem ckStep_low (c : CkWord) (d : Symbol) :
    (ckStep Config.GEN c d).extractLsb' 0 5 = c.extractLsb' 35 5 ^^^ d := by
  have hin : (c <<< 5 ^^^ d.setWidth 40).extractLsb' 0 5 = d := by
    ext i hi
    simp [hi, show i < 40 by omega]
  rw [ckStep_eq_xor, BitVec.extractLsb'_xor, ckFeedback_low, hin]

/-- The low five bits of the result give back the five bits shifted out, and then the rest the bits below them. -/
theorem ckStep_left_injective {c c' : CkWord} {d : Symbol} (h : ckStep Config.GEN c d = ckStep Config.GEN c' d) :
    c = c' := by
  have htop : c.extractLsb' 35 5 = c'.extractLsb' 35 5 := by
    simpa only [ckStep_low, BitVec.xor_left_inj] using congrArg (BitVec.extractLsb' 0 5) h
  have hrest : c <<< 5 = c' <<< 5 := by
    simpa only [ckStep_eq_xor, htop, BitVec.xor_right_inj, BitVec.xor_left_inj] using h
  ext i hi
  by_cases hlow : i < 35
  · have hbit := congrArg (BitVec.getLsbD · (i + 5)) hrest
    simpa [show i + 5 < 40 by omega] using hbit
  · have hbit := congrArg (BitVec.getLsbD · (i - 35)) htop
    simpa [BitVec.getLsbD_eq_getElem hi, show i - 35 < 5 by omega, show 35 + (i - 35) = i by omega] using hbit

theorem ckStep_right_injective {c : CkWord} {d d' : Symbol} (h : ckStep Config.GEN c d = ckStep Config.GEN c d') :
    d = d' := by
  simpa only [ckStep_low, BitVec.xor_right_inj] using congrArg (BitVec.extractLsb' 0 5) h

theorem ckRun_left_injective {c c' : CkWord} {v : List Symbol} (h : ckRun Config.GEN c v = ckRun Config.GEN c' v) :
    c = c' := by
  induction v generalizing c c' with
  | nil => exact h
  | cons d v ih => exact ckStep_left_injective (ih h)

/-- One changed symbol changes the accumulator, and no later step loses the difference. -/
theorem ckRun_set_ne {v : List Symbol} {j : Nat} {d : Symbol} (hj : j < v.length) (hd : v.getD j 0#5 ≠ d)
    (c : CkWord) : ckRun Config.GEN c (v.set j d) ≠ ckRun Config.GEN c v := by
  induction v generalizing j c with
  | nil => simp at hj
  | cons x v ih =>
    cases j with
    | zero => exact fun h => hd (ckStep_right_injective (ckRun_left_injective h)).symm
    | succ j => exact ih (Nat.lt_of_succ_lt_succ hj) hd (ckStep Config.GEN c x)

/-- One changed symbol, anywhere in a sequence, changes `polymod`. -/
theorem polymod_set_ne (u : List Symbol) {v : List Symbol} (w : List Symbol) {j : Nat} {d : Symbol}
    (hj : j < v.length) (hd : v.getD j 0#5 ≠ d) : polymod (u ++ v.set j d ++ w) ≠ polymod (u ++ v ++ w) := by
  intro h
  simp only [polymod, polymodOf, BitVec.xor_left_inj, ckRun_append] at h
  exact ckRun_set_ne hj hd _ (ckRun_left_injective h)

/-! ### The statements about `polymod` for any constants -/

/-- Settles O44: the XOR of three runs of one length is the run from the XOR of the three equal starting values. -/
theorem polymodIsAffine : Obligations.PolymodIsAffine := by
  unfold Obligations.PolymodIsAffine
  intro gen start a b h
  have hrun : ckRun gen start (List.zipWith (fun x y => x ^^^ y) a b) =
      ckRun gen start a ^^^ ckRun gen start b ^^^ ckRun gen start (List.replicate a.length 0#5) := by
    have hlen : (List.zipWith (fun x y => x ^^^ y) a b).length = a.length := by simp [h]
    rw [← ckRun_xor gen h, ← hlen, ← ckRun_xor gen (by simp), zipWith_xor_zeros, BitVec.xor_self, BitVec.zero_xor]
  have hfinal (x y z f : CkWord) : (x ^^^ f) ^^^ (y ^^^ f) ^^^ (z ^^^ f) = x ^^^ y ^^^ z ^^^ f := by
    calc (x ^^^ f) ^^^ (y ^^^ f) ^^^ (z ^^^ f)
      _ = x ^^^ y ^^^ z ^^^ f ^^^ (f ^^^ f) := by ac_rfl
      _ = x ^^^ y ^^^ z ^^^ f := by rw [BitVec.xor_self, BitVec.xor_zero]
  rw [polymodOf, polymodOf, polymodOf, polymodOf, hfinal, hrun]

/-- Settles O45: eight zeros and the eight checksum symbols differ, in their runs, by the checksum itself. -/
theorem generatedChecksumVerifies : Obligations.GeneratedChecksumVerifies := by
  unfold Obligations.GeneratedChecksumVerifies
  intro gen start v
  rw [polymodOf, ckRun_append, ckRun_eq_xor_zeros, ckRun_cksyms, cksyms_length, polymodOf, ckRun_append]
  generalize ckRun gen (ckRun gen start v) (List.replicate 8 0#5) = x
  calc x ^^^ Config.CK_FINAL_XOR ^^^ x ^^^ Config.CK_FINAL_XOR
    _ = (x ^^^ x) ^^^ (Config.CK_FINAL_XOR ^^^ Config.CK_FINAL_XOR) := by ac_rfl
    _ = 0#40 := by simp only [BitVec.xor_self]

/-! ### The expansion of `pfx` and the checksum behind its payload (R141, R144) -/

/-- The eight symbols of a checksum, put behind the sequence that it is the checksum of, reduce to zero (R148). -/
theorem polymod_append_cksum (pfx : List Byte) (p : List Symbol) :
    polymod (expand pfx ++ (p ++ cksyms (cksum pfx p))) = 0#40 := by
  rw [← List.append_assoc]
  exact generatedChecksumVerifies Config.GEN Config.CK_INIT (expand pfx ++ p)

theorem expand_set (pfx : List Byte) {j : Nat} (hj : j < pfx.length) (c : Byte) :
    expand (pfx.set j c) = (expand pfx).set j (symbolOfItem c) := by
  rw [expand, expand, List.map_set, List.set_append_left _ _ (by simpa using hj)]

theorem expand_getD (pfx : List Byte) {j : Nat} (hj : j < pfx.length) :
    (expand pfx).getD j 0#5 = symbolOfItem (pfx.getD j 0#8) := by
  rw [expand, List.getD_append _ _ _ _ (by simpa using hj)]
  simp [hj]

/-- `expand` reads bits 4:0 of the characters only. -/
theorem expand_congr {pfx pfx' : List Byte}
    (h : pfx'.map (fun c => c.extractLsb' 0 5) = pfx.map fun c => c.extractLsb' 0 5) : expand pfx' = expand pfx := by
  simp only [← symbolOfItem_eq] at h
  exact congrArg (· ++ [0#5]) h

/-! ### `CK_GEN` and `CK_VFY`: the operand check and the result (R146, R147, R201) -/

section
variable {s t : State}

theorem ckGen_operandsBad_iff : operandsBad .ckGen s = true ↔
    Config.ICAP < s.ilen.toNat ∨ Config.PCAP < s.plen.toNat ∨ ¬SymbolInput s := by
  simp only [operandsBad, State.ckGenBad, State.ilenOver, State.plenOver, Bool.or_eq_true, decide_eq_true_eq, or_assoc,
    ← badSymbolItem_eq_false_iff, Bool.not_eq_false]

/-- `CK_VFY` has the operand check of `CK_GEN`. -/
theorem ckVfy_operandsBad (s : State) : operandsBad .ckVfy s = operandsBad .ckGen s := rfl

theorem ckGen_operandsOk (hicap : s.ilen.toNat ≤ Config.ICAP) (hpcap : s.plen.toNat ≤ Config.PCAP)
    (hsym : SymbolInput s) : operandsBad .ckGen s = false := by
  rw [← Bool.not_eq_true, ckGen_operandsBad_iff]
  simp [hicap, hpcap, hsym]

theorem exec_ckGen_succeedsWith (hr : s.ready = true) (hbad : operandsBad .ckGen s = false) :
    ∃ t, exec .ckGen s = .next t ∧
      SucceedsWith s t ((cksyms (cksum s.prefixItems s.inputSymbols)).map itemOfSymbol) false :=
  exec_succeedsWith_of_body hr hbad rfl (keepsInputs_withCk s _) (fun _ => rfl) (by simp [Config.OCAP])

theorem exec_ckVfy_succeedsWith (hr : s.ready = true) (hbad : operandsBad .ckVfy s = false) :
    ∃ t, exec .ckVfy s = .next t ∧ SucceedsWith s t [] (verdict .ckVfy s) :=
  exec_succeedsWith_of_body hr hbad rfl (keepsInputs_withCk s _) (fun _ => rfl) (Nat.zero_le _)

/-- What some answer of a command satisfies, its one answer satisfies. -/
theorem of_exec_next {i : Instr} {P : State → Prop} (h : ∃ t', exec i s = .next t' ∧ P t')
    (ht : exec i s = .next t) : P t := by
  obtain ⟨t', ht', hP⟩ := h
  exact Host.Outcome.next.inj (ht'.symm.trans ht) ▸ hP

/-- The operand check alone decides between the two exits of `CK_GEN`. -/
theorem exec_ckGen_report (hr : s.ready = true) (h : exec .ckGen s = .next t) :
    t.err = (if operandsBad .ckGen s then ErrorCode.badOperand.code else 0#4) ∧
    t.outputItems = if operandsBad .ckGen s then []
      else (cksyms (cksum s.prefixItems s.inputSymbols)).map itemOfSymbol := by
  cases hbad : operandsBad .ckGen s with
  | true =>
    have ht := of_exec_next (exec_failsWith_badOperand hr hbad) h
    exact ⟨ht.err, outputItems_of_olen_zero ht.olen⟩
  | false =>
    have ht := of_exec_next (exec_ckGen_succeedsWith hr hbad) h
    exact ⟨ht.err, ht.outputItems⟩

/-- The operand check alone decides between the two exits of `CK_VFY`. -/
theorem exec_ckVfy_report (hr : s.ready = true) (h : exec .ckVfy s = .next t) :
    t.err = (if operandsBad .ckVfy s then ErrorCode.badOperand.code else 0#4) ∧
    t.vok = if operandsBad .ckVfy s then false else verdict .ckVfy s := by
  cases hbad : operandsBad .ckVfy s with
  | true =>
    have ht := of_exec_next (exec_failsWith_badOperand hr hbad) h
    exact ⟨ht.err, ht.vokIs⟩
  | false =>
    have ht := of_exec_next (exec_ckVfy_succeedsWith hr hbad) h
    exact ⟨ht.err, ht.vokIs⟩

/-- The operand check reads `PLEN`, and of the input its items. -/
theorem ckGen_operandsBad_congr (hplen : t.plen.toNat = s.plen.toNat) (hin : t.inputItems = s.inputItems) :
    operandsBad .ckGen t = operandsBad .ckGen s := by
  rw [Bool.eq_iff_iff, ckGen_operandsBad_iff, ckGen_operandsBad_iff]
  simp only [symbolInput_iff_forall_mem, ← State.inputItems_length, hplen, hin]

end

/-! ### The statements about the commands and `pfx` -/

/-- Settles O32: the operand check is the rule's, and the pseudocode cannot fail. -/
theorem ckGenWritesTheEightChecksumSymbols : Obligations.CkGenWritesTheEightChecksumSymbols := by
  unfold Obligations.CkGenWritesTheEightChecksumSymbols
  refine ⟨decode_encode .ckGen, fun s hr => exec_isNotReady _ hr,
    fun s hr hbad => exec_failsWith_badOperand hr (ckGen_operandsBad_iff.2 hbad), fun s hr hicap hpcap hsym => ?_⟩
  obtain ⟨t, hexec, ht⟩ := exec_ckGen_succeedsWith hr (ckGen_operandsOk hicap hpcap hsym)
  exact ⟨t, hexec, BitVec.eq_of_toNat_eq (by simp [ht.olen]), ht⟩

/-- Settles O33: the operand check is `CK_GEN`'s, and a mismatch is no failure of the pseudocode. -/
theorem ckVfyReportsTheVerdictInVok : Obligations.CkVfyReportsTheVerdictInVok := by
  unfold Obligations.CkVfyReportsTheVerdictInVok
  exact ⟨decode_encode .ckVfy, fun s hr => exec_isNotReady _ hr,
    fun s hr hbad => exec_failsWith_badOperand hr (ckGen_operandsBad_iff.2 hbad),
    fun s hr hicap hpcap hsym => exec_ckVfy_succeedsWith hr (ckGen_operandsOk hicap hpcap hsym)⟩

/-- Settles O46: `CK_VFY` finds the payload and its checksum symbols in the input, and they reduce to zero. -/
theorem ckVfyAcceptsWhatCkGenWrote : Obligations.CkVfyAcceptsWhatCkGenWrote := by
  unfold Obligations.CkVfyAcceptsWhatCkGenWrote
  intro s hr hilen hplen hsym
  have hicap : s.ilen.toNat ≤ Config.ICAP := hilen.trans (by decide)
  obtain ⟨t, hexec, ht⟩ := exec_ckGen_succeedsWith hr (ckGen_operandsOk hicap hplen hsym)
  refine ⟨t, hexec, fun u hur hpfx hin => ?_⟩
  have hulen : u.ilen.toNat = s.ilen.toNat + 8 := by
    rw [← u.inputItems_length, hin, ht.outputItems]
    simp
  have huplen : u.plen.toNat = s.plen.toNat := by rw [← u.prefixItems_length, hpfx, s.prefixItems_length]
  rw [ht.outputItems, ← inputSymbols_map_itemOfSymbol hsym, ← List.map_append] at hin
  obtain ⟨husym, husyms⟩ := symbolInput_of_itemsOfSymbols hin
  have hvalid : verdict .ckVfy u = true := by
    rw [verdict, hpfx, husyms, polymod_append_cksum]
    rfl
  rw [← hvalid]
  exact exec_ckVfy_succeedsWith hur
    (ckGen_operandsOk (by simp [Config.ICAP]; omega) (huplen.trans_le hplen) husym)

/-- Settles O47: the changed input is refused as an operand, or its `polymod` is not that of the valid one. -/
theorem singleSymbolChangeIsDetected : Obligations.SingleSymbolChangeIsDetected := by
  unfold Obligations.SingleSymbolChangeIsDetected
  intro s s' t j d hexec hr hvok hr' hpfx hsyms hj hd
  obtain ⟨t', hexec'⟩ := exec_answers_next .ckVfy s'
  refine ⟨t', hexec', Bool.eq_false_iff.2 fun hvok' => ?_⟩
  have hvalid : polymod (expand s.prefixItems ++ s.inputSymbols) = 0#40 :=
    of_decide_eq_true ((exec_vok_iff hr hexec).1 hvok).2
  have hvalid' : polymod (expand s'.prefixItems ++ s'.inputSymbols) = 0#40 :=
    of_decide_eq_true ((exec_vok_iff hr' hexec').1 hvok').2
  rw [hpfx, hsyms] at hvalid'
  exact polymod_set_ne (expand s.prefixItems) [] hj hd (by simp only [List.append_nil, hvalid, hvalid'])

/-- Settles O48: a character with other low five bits changes one symbol of the expansion. -/
theorem checksumIsBoundToThePrefix : Obligations.ChecksumIsBoundToThePrefix := by
  unfold Obligations.ChecksumIsBoundToThePrefix
  intro pfx j c p hj hc
  have hsym : (expand pfx).getD j 0#5 ≠ symbolOfItem c := by
    rwa [expand_getD pfx hj, symbolOfItem_eq, symbolOfItem_eq]
  rw [cksum, cksum, cksumInput, cksumInput, List.append_assoc, List.append_assoc, expand_set pfx hj c]
  exact polymod_set_ne [] _ (by simp; omega) hsym

/-- Settles O49: the operand check reads `PLEN` only of `pfx`, and the pseudocode its expansion only. -/
theorem highBitsOfThePrefixAreNotBound : Obligations.HighBitsOfThePrefixAreNotBound := by
  unfold Obligations.HighBitsOfThePrefixAreNotBound
  intro s s' hr hr' hpfx hin
  have hexpand := expand_congr hpfx
  have hsyms : s'.inputSymbols = s.inputSymbols := congrArg (List.map symbolOfItem) hin
  have hbad : operandsBad .ckGen s' = operandsBad .ckGen s :=
    ckGen_operandsBad_congr (by simpa using congrArg List.length hpfx) hin
  refine ⟨fun t t' h h' => ?_, fun t t' h h' => ?_⟩
  · obtain ⟨herr, hout⟩ := exec_ckGen_report hr h
    obtain ⟨herr', hout'⟩ := exec_ckGen_report hr' h'
    have hsum : cksum s'.prefixItems s'.inputSymbols = cksum s.prefixItems s.inputSymbols := by
      simp only [cksum, cksumInput, hexpand, hsyms]
    rw [herr', herr, hout', hout, hbad, hsum]
    exact ⟨rfl, rfl⟩
  · obtain ⟨herr, hvok⟩ := exec_ckVfy_report hr h
    obtain ⟨herr', hvok'⟩ := exec_ckVfy_report hr' h'
    have hverdict : verdict .ckVfy s' = verdict .ckVfy s := by simp only [verdict, hexpand, hsyms]
    rw [herr', herr, hvok', hvok, ckVfy_operandsBad, ckVfy_operandsBad, hbad, hverdict]
    exact ⟨rfl, rfl⟩

end Sys2Proof.Machine
end

section
/-! The Address Payload Codec (44_address_payload_assembler.md): where a text is split, what a raw address is, the
checksum symbols as the only ones that verify; how `ENCODE` and `DECODE` end, that each undoes the other, and what
decodes. -/

namespace Sys2Proof.Machine

/-! ### The body of a text and what stands before it (R171, R172) -/

section
variable {pfx text body : List Byte}

theorem textBody_of_notMem (h : Config.SEP_CODE ∉ text) : textBody text = text := if_neg h

theorem prefixAccepted_of_notMem (h : Config.SEP_CODE ∉ text) : PrefixAccepted pfx text := fun hmem => absurd hmem h

theorem takeWhile_append_sep (h : Config.SEP_CODE ∉ pfx) (body : List Byte) :
    (pfx ++ Config.SEP_CODE :: body).takeWhile (· ≠ Config.SEP_CODE) = pfx := by
  have hpfx : ∀ c ∈ pfx, decide (c ≠ Config.SEP_CODE) = true := fun c hc => decide_eq_true fun heq => h (heq ▸ hc)
  rw [List.takeWhile_append_of_pos hpfx, List.takeWhile_cons_of_neg (by simp), List.append_nil]

theorem textBody_append_sep (h : Config.SEP_CODE ∉ pfx) (body : List Byte) :
    textBody (pfx ++ Config.SEP_CODE :: body) = body := by
  rw [textBody, if_pos (by simp), takeWhile_append_sep h, List.drop_length_add_append]
  rfl

/-- What stands before the first separator holds no separator, so a `pfx` that holds one is found in no text. -/
theorem PrefixAccepted.sep_notMem (h : PrefixAccepted pfx text) (hmem : Config.SEP_CODE ∈ text) :
    Config.SEP_CODE ∉ pfx := by
  rw [← h hmem]
  exact fun hsep => by simpa using List.mem_takeWhile_imp hsep

/-- An accepted text is its body, alone or behind `pfx` and the separator. -/
theorem PrefixAccepted.text_eq (h : PrefixAccepted pfx text) :
    text = (if Config.SEP_CODE ∉ text then [] else pfx ++ [Config.SEP_CODE]) ++ textBody text := by
  by_cases hmem : Config.SEP_CODE ∈ text
  · obtain ⟨front, body, rfl, hfront⟩ := List.eq_append_cons_of_mem hmem
    obtain rfl : front = pfx := (takeWhile_append_sep hfront body).symm.trans (h hmem)
    rw [textBody_append_sep hfront, if_neg (not_not.2 hmem)]
    simp
  · simp [hmem, textBody_of_notMem hmem]

theorem findIdx?_sep_of_notMem (h : Config.SEP_CODE ∉ text) : text.findIdx? (· = Config.SEP_CODE) = none :=
  List.findIdx?_eq_none_iff.2 fun _ hc => decide_eq_false fun heq => h (heq ▸ hc)

theorem splitText_of_notMem (h : Config.SEP_CODE ∉ text) : splitText pfx text = .ok text := by
  simp only [splitText, findIdx?_sep_of_notMem h]

theorem splitText_append_sep {front : List Byte} (h : Config.SEP_CODE ∉ front) (body : List Byte) :
    splitText pfx (front ++ Config.SEP_CODE :: body) = if front ≠ pfx then .error .wrongNetwork else .ok body := by
  have hidx : (front ++ Config.SEP_CODE :: body).findIdx? (· = Config.SEP_CODE) = some front.length := by
    simp [List.findIdx?_append, findIdx?_sep_of_notMem h, List.findIdx?_cons]
  simp only [splitText, hidx, List.take_left, List.drop_length_add_append]
  rfl

/-- Stage 1 of `DECODE` passes the body on if it accepts what stands before it. -/
theorem splitText_of_accepted (h : PrefixAccepted pfx text) : splitText pfx text = .ok (textBody text) := by
  by_cases hmem : Config.SEP_CODE ∈ text
  · obtain ⟨front, body, rfl, hfront⟩ := List.eq_append_cons_of_mem hmem
    have heq : front = pfx := (takeWhile_append_sep hfront body).symm.trans (h hmem)
    rw [splitText_append_sep hfront, if_neg (not_not.2 heq), textBody_append_sep hfront]
  · rw [splitText_of_notMem hmem, textBody_of_notMem hmem]

theorem splitText_of_not_accepted (h : ¬PrefixAccepted pfx text) : splitText pfx text = .error .wrongNetwork := by
  obtain ⟨hmem, hne⟩ := Classical.not_imp.1 h
  obtain ⟨front, body, rfl, hfront⟩ := List.eq_append_cons_of_mem hmem
  rw [takeWhile_append_sep hfront] at hne
  rw [splitText_append_sep hfront, if_pos hne]

theorem splitText_ok_iff : splitText pfx text = .ok body ↔ PrefixAccepted pfx text ∧ textBody text = body := by
  by_cases h : PrefixAccepted pfx text
  · simp [splitText_of_accepted h, h]
  · simp [splitText_of_not_accepted h, h]

end

/-! ### Raw addresses (R76): what `ENCODE` takes and `DECODE` gives -/

/-- A sequence of bytes is a raw address: 21 bytes, the first a legal tag. -/
structure IsRawAddress (b : List Byte) : Prop where
  length : b.length = Config.RAW_LEN
  tag : tagLegal (b.headD 0#8) = true

theorem tagLegal_iff (tag : Byte) : tagLegal tag = true ↔ tag = 0x00#8 ∨ tag = 0x08#8 := by
  rw [tagLegal, Bool.or_eq_true, decide_eq_true_iff, decide_eq_true_iff]
  rfl

theorem tagLegal_eq_false_iff (tag : Byte) : tagLegal tag = false ↔ tag ≠ 0x00#8 ∧ tag ≠ 0x08#8 := by
  rw [← Bool.not_eq_true, tagLegal_iff, not_or]

theorem checkRaw_of_tag {tag : Byte} {hash : List Byte} (h : tagLegal tag = false) :
    checkRaw (tag :: hash) = .error .unknownAddressType := by simp [checkRaw, h]

theorem checkRaw_of_length {tag : Byte} {hash : List Byte} (htag : tagLegal tag = true)
    (h : hash.length ≠ Config.HASH_LEN) : checkRaw (tag :: hash) = .error .invalidLength := by
  simp [checkRaw, htag, h]

/-- Stages 6 and 7 of `DECODE` accept the raw addresses. -/
theorem checkRaw_ok_iff {b b' : List Byte} : checkRaw b = .ok b' ↔ IsRawAddress b ∧ b = b' := by
  cases b with
  | nil => exact ⟨fun h => (nomatch h), fun ⟨h, _⟩ => nomatch h.length⟩
  | cons tag hash =>
    cases htag : tagLegal tag with
    | false =>
      have hraw : ¬IsRawAddress (tag :: hash) := fun h => Bool.false_ne_true (htag.symm.trans h.tag)
      simp [checkRaw_of_tag htag, hraw]
    | true =>
      by_cases hlen : hash.length = Config.HASH_LEN
      · have hraw : IsRawAddress (tag :: hash) := ⟨congrArg Nat.succ hlen, htag⟩
        simp [checkRaw, htag, hlen, hraw]
      · have hraw : ¬IsRawAddress (tag :: hash) := fun h => hlen (Nat.succ.inj h.length)
        simp [checkRaw_of_length htag hlen, hraw]

/-! ### The checksum symbols are the only eight that verify (R148) -/

section
variable (gen : Vector CkWord 5)

/-- At most eight symbols, run over from 0, stand in the accumulator unchanged, below zeros. -/
theorem ckRun_zero_bits {w : List Symbol} (hw : w.length ≤ 8) :
    lowBits (w.length * 5) (ckRun gen 0#40 w) = bitStream w ∧
      ∀ i, w.length * 5 ≤ i → (ckRun gen 0#40 w).getLsbD i = false := by
  induction w using List.reverseRecOn with
  | nil => simp [lowBits]
  | append_singleton w d ih =>
    rw [List.length_append, List.length_singleton] at hw ⊢
    obtain ⟨hbits, hzero⟩ := ih (by omega)
    have htop : (ckRun gen 0#40 w).extractLsb' 35 5 = 0#5 := by
      ext i hi
      simpa [hi] using hzero (35 + i) (by omega)
    rw [ckRun_append, ckRun_cons, ckRun_nil, ckStep_of_top_zero gen htop]
    constructor
    · rw [Nat.succ_mul, lowBits_add, bitStream_append, bitStream_cons, bitStream_nil, List.append_nil, ← hbits]
      congr 1
      · refine lowBits_congr fun i hi => ?_
        simp [show 5 + i < 40 by omega, BitVec.getLsbD_eq_getElem (show i < 40 by omega)]
      · exact lowBits_congr fun i hi => by simp [hi, show i < 40 by omega]
    · intro i hi
      have hshift := hzero (i - 5) (by omega)
      simp [hshift, BitVec.getLsbD_of_ge d i (by omega)]

theorem ckRun_zero_injective {w w' : List Symbol} (hw : w.length = 8) (hw' : w'.length = 8)
    (h : ckRun gen 0#40 w = ckRun gen 0#40 w') : w = w' := by
  refine bitStream_injective (by decide) ?_
  rw [← (ckRun_zero_bits gen hw.le).1, ← (ckRun_zero_bits gen hw'.le).1, h, hw, hw']

/-- Eight symbols that make a sequence reduce to zero are its checksum symbols. -/
theorem eq_cksyms_of_polymodOf_eq_zero {start : CkWord} {v w : List Symbol} (hw : w.length = 8)
    (h : polymodOf gen start (v ++ w) = 0#40) :
    w = cksyms (polymodOf gen start (v ++ List.replicate 8 0#5)) := by
  have hck := h.trans (generatedChecksumVerifies gen start v).symm
  rw [polymodOf, polymodOf, BitVec.xor_left_inj, ckRun_append, ckRun_append, ckRun_eq_xor_zeros,
    ckRun_eq_xor_zeros _ _ (cksyms _), hw, cksyms_length, BitVec.xor_left_inj] at hck
  exact ckRun_zero_injective gen hw (cksyms_length _) hck

end

/-! ### `ENCODE`: its checks, its errors and its result (R162, R201) -/

section
variable {s t : State} {n : Bool} {r : Regrouped 8 5}

theorem encode_operandsOk_iff : operandsBad (.encode n) s = false ↔
    s.ilen.toNat ≤ Config.ICAP ∧ s.plen.toNat ≤ Config.PCAP := by
  simp only [operandsBad, State.encodeBad, Bool.or_eq_false_iff, ilenOver_eq_false_iff, plenOver_eq_false_iff]

theorem inputItems_headD (h : 0 < s.ilen.toNat) : s.inputItems.headD 0#8 = s.memRead Config.ibufBase := by
  have hpos : 0 < s.inputItems.length := by rwa [s.inputItems_length]
  rw [List.headD_eq_head?_getD, List.head?_eq_getElem?, List.getElem?_eq_getElem hpos, Option.getD_some]
  exact s.getElem_items _ _ _ h

/-- An input of 21 items with a legal tag is a raw address. -/
theorem isRawAddress_inputItems (hilen : s.ilen = 21#8)
    (htag : s.memRead Config.ibufBase = 0x00#8 ∨ s.memRead Config.ibufBase = 0x08#8) : IsRawAddress s.inputItems where
  length := by rw [s.inputItems_length, hilen]; rfl
  tag := by rwa [inputItems_headD (by rw [hilen]; decide), tagLegal_iff]

theorem encodeBody_of_length (h : s.inputItems.length ≠ Config.RAW_LEN) :
    commandBody (.encode n) s = .error .invalidLength := by
  simp only [commandBody, encodeBody, if_pos h]

theorem encodeBody_of_tag (hlen : s.inputItems.length = Config.RAW_LEN)
    (htag : tagLegal (s.inputItems.headD 0#8) = false) : commandBody (.encode n) s = .error .unknownAddressType := by
  simp only [commandBody, encodeBody, hlen, htag, ne_eq, not_true_eq_false, if_false, Bool.not_false, if_true]

theorem encodeBody_of_raw (hraw : IsRawAddress s.inputItems) (hx : regroup 8 5 true s.inputItems = .ok r) :
    commandBody (.encode n) s =
      .ok (((((s.withRg r.regs.acc r.regs.cnt).withCk (ckAcc (cksumInput s.prefixItems r.groups))).withScratch
        (encodedSymbols s r) ((encodedSymbols s r).map symbolToChar) 7).out (encodedText n s r)).done false) := by
  simp only [commandBody, encodeBody, hraw.length, hraw.tag, hx]
  rfl

/-- A raw address is regrouped to 34 symbols (R81). -/
theorem rawAddress_regroup_length (hraw : IsRawAddress s.inputItems) (hx : regroup 8 5 true s.inputItems = .ok r) :
    r.groups.length = 34 := by
  rw [regroup_length_eq_count (by decide) hx, hraw.length]
  rfl

/-- The text is the characters, behind nothing or behind `pfx` and the separator. -/
theorem encodedText_eq (n : Bool) (s : State) (r : Regrouped 8 5) : encodedText n s r =
    (if n then [] else s.prefixItems ++ [Config.SEP_CODE]) ++ (encodedSymbols s r).map symbolToChar := by
  cases n <;> rfl

theorem encodedText_length (hraw : IsRawAddress s.inputItems) (hx : regroup 8 5 true s.inputItems = .ok r) :
    (encodedText n s r).length = if n then 42 else s.plen.toNat + 43 := by
  have hsyms := encodedSymbols_length hraw.length hx
  cases n <;> simp [encodedText, hsyms]

/-- No character of the alphabet is the separator. -/
theorem symbolToChar_ne_sep : ∀ x : Symbol, symbolToChar x ≠ Config.SEP_CODE := by decide +kernel

theorem sep_notMem_map_symbolToChar (xs : List Symbol) : Config.SEP_CODE ∉ xs.map symbolToChar := by
  simp [symbolToChar_ne_sep]

/-- A text is accepted under its own `pfx`, unless that is written and holds a separator; its body is the characters. -/
theorem encodedText_parts (hsep : n = false → Config.SEP_CODE ∉ s.prefixItems) :
    PrefixAccepted s.prefixItems (encodedText n s r) ∧
      textBody (encodedText n s r) = (encodedSymbols s r).map symbolToChar := by
  have hchars := sep_notMem_map_symbolToChar (encodedSymbols s r)
  cases n with
  | true => exact ⟨prefixAccepted_of_notMem hchars, textBody_of_notMem hchars⟩
  | false =>
    have htext : encodedText false s r =
        s.prefixItems ++ Config.SEP_CODE :: (encodedSymbols s r).map symbolToChar := by simp [encodedText]
    rw [htext]
    exact ⟨fun _ => takeWhile_append_sep (hsep rfl) _, textBody_append_sep (hsep rfl) _⟩

theorem plen_of_prefixItems {u : State} (h : u.prefixItems = s.prefixItems) : u.plen.toNat = s.plen.toNat := by
  rw [← u.prefixItems_length, h, s.prefixItems_length]

/-- A text and its `pfx` are short enough to be the operands of `DECODE`. -/
theorem encodedText_operandsFit {u : State} (hplen : s.plen.toNat ≤ Config.PCAP) (hraw : IsRawAddress s.inputItems)
    (hx : regroup 8 5 true s.inputItems = .ok r) (hpfx : u.prefixItems = s.prefixItems)
    (hin : u.inputItems = encodedText n s r) : u.ilen.toNat ≤ Config.ICAP ∧ u.plen.toNat ≤ Config.PCAP := by
  refine ⟨?_, (plen_of_prefixItems hpfx).trans_le hplen⟩
  rw [← u.inputItems_length, hin]
  exact encodedText_length_le hplen (encodedSymbols_length hraw.length hx)

theorem exec_encode_succeedsWith (hr : s.ready = true) (hplen : s.plen.toNat ≤ Config.PCAP)
    (hraw : IsRawAddress s.inputItems) (hx : regroup 8 5 true s.inputItems = .ok r) :
    ∃ t, exec (.encode n) s = .next t ∧ SucceedsWith s t (encodedText n s r) false := by
  have hicap : s.ilen.toNat ≤ Config.ICAP := by rw [← s.inputItems_length, hraw.length]; decide
  exact exec_succeedsWith_of_body hr (encode_operandsOk_iff.2 ⟨hicap, hplen⟩) (encodeBody_of_raw hraw hx)
    (((keepsInputs_withRg s _ _).trans (keepsInputs_withCk _ _)).trans (keepsInputs_withScratch ..)) (fun _ => rfl)
    (encodedText_length_le hplen (encodedSymbols_length hraw.length hx))

/-- An `ENCODE` that leaves `ERR` at 0 found a raw address and has written its text. -/
theorem exec_encode_success (hr : s.ready = true) (h : exec (.encode n) s = .next t) (herr : t.err = 0#4) :
    s.plen.toNat ≤ Config.PCAP ∧ IsRawAddress s.inputItems ∧
      ∃ r, regroup 8 5 true s.inputItems = .ok r ∧ t.outputItems = encodedText n s r := by
  obtain ⟨hbad, hbody⟩ := exec_success hr h herr
  obtain ⟨hlen, htag, r, hx, -⟩ := encodeBody_ok hbody
  have hplen := (encode_operandsOk_iff.1 hbad).2
  have ht := of_exec_next (exec_encode_succeedsWith hr hplen ⟨hlen, htag⟩ hx) h
  exact ⟨hplen, ⟨hlen, htag⟩, r, hx, ht.outputItems⟩

/-- The symbols of a text verify under its `pfx` (R163). -/
theorem polymod_encodedSymbols (s : State) (r : Regrouped 8 5) :
    polymod (expand s.prefixItems ++ encodedSymbols s r) = 0#40 := polymod_append_cksum s.prefixItems r.groups

end

/-! ### `DECODE`: its checks, the error of each stage and its result (R170, R201) -/

section
variable {s t : State} {pfx : List Byte} {syms : List Symbol} {r : Regrouped 5 8} {e : ErrorCode}

theorem decode_operandsOk_iff : operandsBad .decode s = false ↔
    s.ilen.toNat ≤ Config.ICAP ∧ s.plen.toNat ≤ Config.PCAP := by
  simp only [operandsBad, State.decodeBad, Bool.or_eq_false_iff, ilenOver_eq_false_iff, plenOver_eq_false_iff]

theorem decodeBody_of_not_accepted (h : ¬PrefixAccepted s.prefixItems s.inputItems) :
    commandBody .decode s = .error .wrongNetwork := by
  simp only [commandBody, decodeBody, splitText_of_not_accepted h]

theorem decodeBody_of_badCharacter (hpfx : PrefixAccepted s.prefixItems s.inputItems)
    (h : ∃ c ∈ textBody s.inputItems, charToSymbol s.rlut c = none) :
    commandBody .decode s = .error .invalidCharacter := by
  simp only [commandBody, decodeBody, splitText_of_accepted hpfx, charsToSymbols_error_iff.2 ⟨rfl, h⟩]

theorem decodeBody_of_decodeSymbols_error (hpfx : PrefixAccepted s.prefixItems s.inputItems)
    (hsyms : (textBody s.inputItems).map (charToSymbol s.rlut) = syms.map some)
    (h : decodeSymbols s.prefixItems syms = .error e) : commandBody .decode s = .error e := by
  simp only [commandBody, decodeBody, splitText_of_accepted hpfx, charsToSymbols_ok_iff.2 hsyms, h]

theorem decodeBody_of_decodeSymbols_ok (hpfx : PrefixAccepted s.prefixItems s.inputItems)
    (hsyms : (textBody s.inputItems).map (charToSymbol s.rlut) = syms.map some)
    (h : decodeSymbols s.prefixItems syms = .ok r) : commandBody .decode s =
      .ok (((((s.withRg r.regs.acc r.regs.cnt).withCk (ckAcc (expand s.prefixItems ++ syms))).withScratch
        syms r.groups 8).out r.groups).done true) := by
  simp only [commandBody, decodeBody, splitText_of_accepted hpfx, charsToSymbols_ok_iff.2 hsyms, h]

theorem decodeSymbols_of_length_lt (h : syms.length < Config.CK_NSYM) :
    decodeSymbols pfx syms = .error .invalidLength := if_pos h

theorem decodeSymbols_of_mismatch (hlen : Config.CK_NSYM ≤ syms.length) (h : polymod (expand pfx ++ syms) ≠ 0#40) :
    decodeSymbols pfx syms = .error .checksumMismatch := by
  rw [decodeSymbols, if_neg (Nat.not_lt.2 hlen), if_pos h]

theorem decodeSymbols_of_regroup_error (hlen : Config.CK_NSYM ≤ syms.length)
    (hsum : polymod (expand pfx ++ syms) = 0#40)
    (h : regroup 5 8 false (syms.take (syms.length - Config.CK_NSYM)) = .error e) :
    decodeSymbols pfx syms = .error e := by
  rw [decodeSymbols, if_neg (Nat.not_lt.2 hlen), if_neg (not_not.2 hsum), h]

theorem decodeSymbols_of_checkRaw_error (hlen : Config.CK_NSYM ≤ syms.length)
    (hsum : polymod (expand pfx ++ syms) = 0#40)
    (hx : regroup 5 8 false (syms.take (syms.length - Config.CK_NSYM)) = .ok r) (h : checkRaw r.groups = .error e) :
    decodeSymbols pfx syms = .error e := by
  rw [decodeSymbols, if_neg (Nat.not_lt.2 hlen), if_neg (not_not.2 hsum), hx]
  simp only [h]

/-- Stages 3 to 7 of `DECODE` accept the symbols that verify and whose payload regroups to a raw address. -/
theorem decodeSymbols_ok_iff : decodeSymbols pfx syms = .ok r ↔
    Config.CK_NSYM ≤ syms.length ∧ polymod (expand pfx ++ syms) = 0#40 ∧
      regroup 5 8 false (syms.take (syms.length - Config.CK_NSYM)) = .ok r ∧ IsRawAddress r.groups := by
  constructor
  · intro h
    obtain ⟨hlen, hsum, hx, raw, hraw⟩ := decodeSymbols_ok h
    exact ⟨hlen, hsum, hx, (checkRaw_ok_iff.1 hraw).1⟩
  · rintro ⟨hlen, hsum, hx, hraw⟩
    rw [decodeSymbols, if_neg (Nat.not_lt.2 hlen), if_neg (not_not.2 hsum), hx]
    simp only [checkRaw_ok_iff.2 ⟨hraw, rfl⟩]

theorem exec_decode_succeedsWith (hr : s.ready = true) (hicap : s.ilen.toNat ≤ Config.ICAP)
    (hplen : s.plen.toNat ≤ Config.PCAP) (hpfx : PrefixAccepted s.prefixItems s.inputItems)
    (hsyms : (textBody s.inputItems).map (charToSymbol s.rlut) = syms.map some)
    (h : decodeSymbols s.prefixItems syms = .ok r) :
    ∃ t, exec .decode s = .next t ∧ SucceedsWith s t r.groups true := by
  obtain ⟨-, -, -, hraw⟩ := decodeSymbols_ok_iff.1 h
  exact exec_succeedsWith_of_body hr (decode_operandsOk_iff.2 ⟨hicap, hplen⟩)
    (decodeBody_of_decodeSymbols_ok hpfx hsyms h)
    (((keepsInputs_withRg s _ _).trans (keepsInputs_withCk _ _)).trans (keepsInputs_withScratch ..)) (fun _ => rfl)
    (hraw.length.trans_le (by decide))

/-- A `DECODE` that leaves `ERR` at 0 passed every stage and has written the raw address. -/
theorem exec_decode_success (hr : s.ready = true) (h : exec .decode s = .next t) (herr : t.err = 0#4) :
    s.plen.toNat ≤ Config.PCAP ∧ PrefixAccepted s.prefixItems s.inputItems ∧
      ∃ syms r, (textBody s.inputItems).map (charToSymbol s.rlut) = syms.map some ∧
        decodeSymbols s.prefixItems syms = .ok r ∧ t.outputItems = r.groups := by
  obtain ⟨hbad, hbody⟩ := exec_success hr h herr
  obtain ⟨hicap, hplen⟩ := decode_operandsOk_iff.1 hbad
  obtain ⟨body, syms, r, hsplit, hchars, hdec, -⟩ := decodeBody_ok hbody
  obtain ⟨hpfx, rfl⟩ := splitText_ok_iff.1 hsplit
  have hsyms := charsToSymbols_ok_iff.1 hchars
  have ht := of_exec_next (exec_decode_succeedsWith hr hicap hplen hpfx hsyms hdec) h
  exact ⟨hplen, hpfx, syms, r, hsyms, hdec, ht.outputItems⟩

end

/-! ### Encoding and decoding of the symbols undo each other (R175) -/

section
variable {s : State}

/-- Stages 3 to 7 of `DECODE` take the symbols of a text back to the raw address. -/
theorem decodeSymbols_encodedSymbols {r : Regrouped 8 5} (hraw : IsRawAddress s.inputItems)
    (hx : regroup 8 5 true s.inputItems = .ok r) :
    ∃ q, decodeSymbols s.prefixItems (encodedSymbols s r) = .ok q ∧ q.groups = s.inputItems := by
  obtain ⟨q, hq, hgroups⟩ := regroup_nopad_undoes_pad (by decide) (by decide) hx
  have hpayload : (encodedSymbols s r).take ((encodedSymbols s r).length - Config.CK_NSYM) = r.groups :=
    List.take_left' (by simp [encodedSymbols, Config.CK_NSYM])
  refine ⟨q, decodeSymbols_ok_iff.2 ⟨?_, polymod_encodedSymbols s r, hpayload ▸ hq, hgroups ▸ hraw⟩, hgroups⟩
  rw [encodedSymbols_length hraw.length hx]
  decide

/-- The symbols that stages 3 to 7 of `DECODE` accept are those that encode their result: padding fills in the dropped
zeros again, and the checksum symbols are the only ones that verify. -/
theorem encodedSymbols_of_decodeSymbols {syms : List Symbol} {q : Regrouped 5 8}
    (h : decodeSymbols s.prefixItems syms = .ok q) (hin : s.inputItems = q.groups) :
    ∃ r, regroup 8 5 true s.inputItems = .ok r ∧ encodedSymbols s r = syms := by
  obtain ⟨hlen, hsum, hq, -⟩ := decodeSymbols_ok_iff.1 h
  obtain ⟨r, hx, hgroups⟩ := regroup_pad_undoes_nopad (by decide) hq
  refine ⟨r, hin ▸ hx, ?_⟩
  rw [encodedSymbols, hgroups]
  generalize hk : syms.length - Config.CK_NSYM = k
  have hck : (syms.drop k).length = 8 := by
    rw [List.length_drop]
    simp only [Config.CK_NSYM] at hk hlen
    omega
  rw [← List.take_append_drop k syms, ← List.append_assoc] at hsum
  rw [polymod, cksumInput, show Config.CK_NSYM = 8 from rfl, ← eq_cksyms_of_polymodOf_eq_zero _ hck hsum,
    List.take_append_drop]

end

/-! ### Which symbols decode (R174) -/

section
variable {fw tw : Nat}

/-- Without padding the groups of `regroup` have the input's stream bits. -/
theorem regroup_nopad_streamBit (hfw : 0 < fw) (htw : 0 < tw) {gs : List (BitVec fw)} {r : Regrouped fw tw}
    (h : regroup fw tw false gs = .ok r) {k : Nat} (hk : k < tw * r.groups.length) :
    streamBit r.groups k = streamBit gs k := by
  obtain ⟨-, hok⟩ := unpaddedRegroupIsTheBitStreamOrFails fw tw gs hfw htw
  exact (hok r h).2 k hk

/-- Taking groups from the front keeps the stream bits that they hold. -/
theorem streamBit_take {w m k : Nat} {gs : List (BitVec w)} (hk : k < w * (gs.take m).length) :
    streamBit (gs.take m) k = streamBit gs k := by
  have hgroup : k / w < (gs.take m).length := Nat.div_lt_of_lt_mul hk
  have hm : k / w < m := hgroup.trans_le (List.length_take_le m gs)
  simp only [streamBit, List.getD_eq_getElem?_getD, List.getElem?_take_of_lt hm]

end

section
variable {pfx : List Byte} {xs syms : List Symbol} {r : Regrouped 5 8}

/-- Bit `k` of symbol `j`, found in the stream. -/
theorem streamBit_symbol (xs : List Symbol) (j : Nat) {k : Nat} (hk : k < 5) :
    streamBit xs (5 * j + (4 - k)) = (xs.getD j 0#5).getLsbD k := streamBit_group xs j hk

/-- Only 34 symbols regroup to 21 bytes: 35 would leave 7 bits over. -/
theorem payload_length_of_regroup (h : regroup 5 8 false xs = .ok r) (hlen : r.groups.length = Config.RAW_LEN) :
    xs.length = 34 := by
  have hcount : xs.length * 5 / 8 = 21 := (regroup_length_eq_count (by decide) h).symm.trans hlen
  have hfew : ¬5 ≤ xs.length * 5 % 8 := fun hmany => by
    rw [(regroup_error_iff (by decide) (by decide)).2 ⟨rfl, rfl, .inl hmany⟩] at h
    cases h
  omega

/-- The bits left over from 34 symbols are the two low ones of the last. -/
theorem someBitSet_leftover_iff (xs : List Symbol) :
    SomeBitSet xs 168 170 ↔ (xs.getD 33 0#5).extractLsb' 0 2 ≠ 0#2 := by
  have hbits : ∀ x : Symbol, x.extractLsb' 0 2 ≠ 0#2 ↔ x.getLsbD 1 = true ∨ x.getLsbD 0 = true := by decide +kernel
  rw [hbits, ← streamBit_symbol xs 33 (k := 1) (by decide), ← streamBit_symbol xs 33 (k := 0) (by decide)]
  constructor
  · rintro ⟨k, hlo, hhi, hbit⟩
    obtain rfl | rfl : k = 168 ∨ k = 169 := by omega
    · exact .inl hbit
    · exact .inr hbit
  · rintro (hbit | hbit)
    · exact ⟨168, by decide, by decide, hbit⟩
    · exact ⟨169, by decide, by decide, hbit⟩

/-- 34 symbols regroup to bytes without a failure exactly if the bits left over are 0. -/
theorem payload_regroups_iff (hlen : xs.length = 34) :
    (∃ r, regroup 5 8 false xs = .ok r) ↔ (xs.getD 33 0#5).extractLsb' 0 2 = 0#2 := by
  have hleftover := regroup_error_iff (fw := 5) (tw := 8) (pad := false) (gs := xs) (e := .invalidPadding)
    (by decide) (by decide)
  simp only [hlen, Nat.reduceMul, Nat.reduceMod, Nat.reduceSub, Nat.reduceLeDiff, false_or, true_and,
    someBitSet_leftover_iff] at hleftover
  rw [← not_iff_not, ← ne_eq _ (0#2), ← hleftover]
  cases hx : regroup 5 8 false xs with
  | error e => simp [(regroup_error hx).2]
  | ok r => simp

/-- The first byte is the first symbol and the three upper bits of the second. -/
theorem tag_of_regroup (h : regroup 5 8 false xs = .ok r) (hpos : 0 < r.groups.length) :
    r.groups.headD 0#8 = xs.getD 0 0#5 ++ (xs.getD 1 0#5).extractLsb' 2 3 := by
  have hhead : r.groups.headD 0#8 = r.groups.getD 0 0 := by cases r.groups <;> rfl
  refine BitVec.eq_of_getLsbD_eq fun k hk => ?_
  rw [hhead, ← streamBit_group r.groups 0 hk, regroup_nopad_streamBit (by decide) (by decide) h (by omega),
    BitVec.getLsbD_append]
  split
  next hlow =>
    have hplace : 8 * 0 + (8 - 1 - k) = 5 * 1 + (4 - (2 + k)) := by omega
    rw [hplace, streamBit_symbol xs 1 (by omega), BitVec.getLsbD_extractLsb', decide_eq_true hlow, Bool.true_and]
  next hhigh =>
    have hplace : 8 * 0 + (8 - 1 - k) = 5 * 0 + (4 - (k - 3)) := by omega
    rw [hplace, streamBit_symbol xs 0 (by omega)]

theorem tagLegal_append_iff : ∀ (x : Symbol) (y : BitVec 3),
    tagLegal (x ++ y) = true ↔ x ≤ 1#5 ∧ y = 0#3 := by decide +kernel

/-- Which payloads are those of a raw address. -/
theorem payload_decodes_iff (hlen : xs.length = 34) :
    (∃ r, regroup 5 8 false xs = .ok r ∧ IsRawAddress r.groups) ↔
      (xs.getD 33 0#5).extractLsb' 0 2 = 0#2 ∧ xs.getD 0 0#5 ≤ 1#5 ∧ (xs.getD 1 0#5).extractLsb' 2 3 = 0#3 := by
  rw [← payload_regroups_iff hlen, ← tagLegal_append_iff]
  constructor
  · rintro ⟨r, hx, hraw⟩
    exact ⟨⟨r, hx⟩, tag_of_regroup hx (by rw [hraw.length]; decide) ▸ hraw.tag⟩
  · rintro ⟨⟨r, hx⟩, htag⟩
    have hraw : r.groups.length = 21 := by rw [regroup_length_eq_count (by decide) hx, hlen]; rfl
    exact ⟨r, hx, hraw, tag_of_regroup hx (by omega) ▸ htag⟩

/-- Stages 3 to 7 of `DECODE` accept exactly the symbols that R174 describes. -/
theorem decodeSymbols_succeeds_iff : (∃ r, decodeSymbols pfx syms = .ok r) ↔
    syms.length = 42 ∧ polymod (expand pfx ++ syms) = 0#40 ∧ (syms.getD 33 0#5).extractLsb' 0 2 = 0#2 ∧
      syms.getD 0 0#5 ≤ 1#5 ∧ (syms.getD 1 0#5).extractLsb' 2 3 = 0#3 := by
  have hpayload (h : syms.length = 42) := payload_decodes_iff (xs := syms.take 34) (by simp [h])
  simp only [List.getD_eq_getElem?_getD, List.getElem?_take_of_lt, Nat.reduceLT] at hpayload ⊢
  constructor
  · rintro ⟨r, h⟩
    obtain ⟨hlen, hsum, hx, hraw⟩ := decodeSymbols_ok_iff.1 h
    have h34 := payload_length_of_regroup hx hraw.length
    have h42 : syms.length = 42 := by
      simp only [List.length_take, Config.CK_NSYM] at h34 hlen
      omega
    rw [h42] at hx
    exact ⟨h42, hsum, (hpayload h42).1 ⟨r, hx, hraw⟩⟩
  · rintro ⟨h42, hsum, hbits⟩
    obtain ⟨r, hx, hraw⟩ := (hpayload h42).2 hbits
    exact ⟨r, decodeSymbols_ok_iff.2 ⟨by rw [h42]; decide, hsum, h42.symm ▸ hx, hraw⟩⟩

end

/-! ### The statements about the two commands and their round trips -/

/-- Settles O34: the checks come before the regrouping, which with padding cannot fail, and the text fits `OBUF`. -/
theorem encodeWritesTheTextOfARawAddress : Obligations.EncodeWritesTheTextOfARawAddress := by
  unfold Obligations.EncodeWritesTheTextOfARawAddress
  refine ⟨decode_encode (.encode false), decode_encode (.encode true), fun n s hr => exec_isNotReady _ hr,
    fun n s hr hbad => ?_, fun n s hr hicap hplen hilen => ?_, fun n s hr hplen hilen h0 h8 => ?_,
    fun n s hr hplen hilen htag => ?_⟩
  · refine exec_failsWith_badOperand hr ?_
    rw [← Bool.not_eq_false, encode_operandsOk_iff]
    omega
  · refine exec_failsWith_of_body hr (encode_operandsOk_iff.2 ⟨hicap, hplen⟩) (encodeBody_of_length ?_)
    rw [s.inputItems_length]
    exact fun hlen => hilen (BitVec.eq_of_toNat_eq hlen)
  · have hlen : s.inputItems.length = Config.RAW_LEN := by rw [s.inputItems_length, hilen]; rfl
    refine exec_failsWith_of_body hr (encode_operandsOk_iff.2 ⟨by rw [hilen]; decide, hplen⟩)
      (encodeBody_of_tag hlen ?_)
    rw [inputItems_headD (by rw [hilen]; decide)]
    exact (tagLegal_eq_false_iff _).2 ⟨h0, h8⟩
  · have hraw := isRawAddress_inputItems hilen htag
    obtain ⟨r, hx⟩ := regroup_pad_ok 8 5 s.inputItems
    obtain ⟨t, hexec, ht⟩ := exec_encode_succeedsWith (n := n) hr hplen hraw hx
    exact ⟨r, t, hx, rawAddress_regroup_length hraw hx, hexec, encodedText_eq n s r ▸ ht,
      ht.olen.trans (encodedText_length hraw hx)⟩

/-- Settles O35: each stage that fails ends the pseudocode with its error, and the stages after it are not reached. -/
theorem decodeRunsItsStagesInOrder : Obligations.DecodeRunsItsStagesInOrder := by
  unfold Obligations.DecodeRunsItsStagesInOrder
  refine ⟨decode_encode .decode, fun s hr => exec_isNotReady _ hr, fun s hr hbad => ?_,
    fun s hr hicap hplen => ?_⟩
  · refine exec_failsWith_badOperand hr ?_
    rw [← Bool.not_eq_false, decode_operandsOk_iff]
    omega
  have hok := decode_operandsOk_iff.2 ⟨hicap, hplen⟩
  refine ⟨fun hpfx => exec_failsWith_of_body hr hok (decodeBody_of_not_accepted hpfx),
    fun hpfx hbad => exec_failsWith_of_body hr hok (decodeBody_of_badCharacter hpfx hbad), fun hpfx syms hsyms => ?_⟩
  have hfail {e : ErrorCode} (h : decodeSymbols s.prefixItems syms = .error e) :
      ∃ t, exec .decode s = .next t ∧ FailsWith s t e :=
    exec_failsWith_of_body hr hok (decodeBody_of_decodeSymbols_error hpfx hsyms h)
  refine ⟨fun hlen => hfail (decodeSymbols_of_length_lt hlen),
    fun hlen hsum => hfail (decodeSymbols_of_mismatch hlen hsum), fun hlen hsum =>
    ⟨fun hx => hfail (decodeSymbols_of_regroup_error hlen hsum hx), fun r hx => ?_⟩⟩
  have hfailRaw {e : ErrorCode} (h : checkRaw r.groups = .error e) : ∃ t, exec .decode s = .next t ∧ FailsWith s t e :=
    hfail (decodeSymbols_of_checkRaw_error hlen hsum hx h)
  refine ⟨fun hnone => hfailRaw (hnone ▸ rfl), fun tag hash hgroups => ?_⟩
  rw [hgroups] at hfailRaw
  refine ⟨fun h0 h8 => hfailRaw (checkRaw_of_tag ((tagLegal_eq_false_iff tag).2 ⟨h0, h8⟩)),
    fun htag hhash => hfailRaw (checkRaw_of_length ((tagLegal_iff tag).2 htag) hhash), fun htag hhash => ?_⟩
  have hraw : IsRawAddress r.groups := hgroups ▸ ⟨congrArg Nat.succ hhash, (tagLegal_iff tag).2 htag⟩
  obtain ⟨t, hexec, ht⟩ := exec_decode_succeedsWith hr hicap hplen hpfx hsyms
    (decodeSymbols_ok_iff.2 ⟨hlen, hsum, hx, hraw⟩)
  exact ⟨t, hexec, BitVec.eq_of_toNat_eq (ht.olen.trans hraw.length), ht⟩

/-- Settles O50: the eight symbols put behind the payload are its checksum. -/
theorem encodedTextVerifiesUnderItsPrefix : Obligations.EncodedTextVerifiesUnderItsPrefix := by
  unfold Obligations.EncodedTextVerifiesUnderItsPrefix
  intro n s t hr hexec herr
  obtain ⟨-, hraw, r, hx, hout⟩ := exec_encode_success hr hexec herr
  rw [hout]
  exact ⟨encodedText_length hraw hx, encodedSymbols s r, encodedSymbols_length hraw.length hx, encodedText_eq n s r,
    polymod_encodedSymbols s r⟩

/-- Settles O52: the characters hold no separator, so the text's body is read back whole, its symbols verify, and the
regrouping back drops the zeros that the padding filled in. -/
theorem decodeUndoesEncode : Obligations.DecodeUndoesEncode := by
  unfold Obligations.DecodeUndoesEncode
  intro n s hr hplen hilen htag hsep
  have hraw := isRawAddress_inputItems hilen htag
  obtain ⟨r, hx⟩ := regroup_pad_ok 8 5 s.inputItems
  obtain ⟨t, hexec, ht⟩ := exec_encode_succeedsWith (n := n) hr hplen hraw hx
  refine ⟨t, hexec, fun u hur htable hpfx hin => ?_⟩
  rw [ht.outputItems] at hin
  obtain ⟨haccepted, hbody⟩ := encodedText_parts (r := r) hsep
  obtain ⟨q, hdec, hgroups⟩ := decodeSymbols_encodedSymbols hraw hx
  rw [← hin, ← hpfx] at haccepted
  rw [← hin] at hbody
  rw [← hpfx] at hdec
  obtain ⟨huicap, huplen⟩ := encodedText_operandsFit hplen hraw hx hpfx hin
  rw [← hgroups]
  exact exec_decode_succeedsWith hur huicap huplen haccepted
    ((map_charToSymbol_eq_iff htable).2 hbody.symm) hdec

/-- Settles O53: the symbols of the text are the only ones that encode its result, and an accepted text is its body,
alone or behind `pfx` and the separator. -/
theorem encodeUndoesDecode : Obligations.EncodeUndoesDecode := by
  unfold Obligations.EncodeUndoesDecode
  intro s t u hr htable hexec herr hur hpfx hin
  obtain ⟨hplen, haccepted, syms, q, hsyms, hdec, hout⟩ := exec_decode_success hr hexec herr
  rw [hout] at hin
  rw [← hpfx] at hdec
  obtain ⟨-, -, -, hraw⟩ := decodeSymbols_ok_iff.1 hdec
  obtain ⟨r, hx, hencoded⟩ := encodedSymbols_of_decodeSymbols hdec hin
  have htext : encodedText (decide (Config.SEP_CODE ∉ s.inputItems)) u r = s.inputItems := by
    rw [encodedText_eq, hencoded, (map_charToSymbol_eq_iff htable).1 hsyms, hpfx]
    simpa only [decide_eq_true_iff] using haccepted.text_eq.symm
  have hencode := exec_encode_succeedsWith (n := decide (Config.SEP_CODE ∉ s.inputItems)) hur
    ((plen_of_prefixItems hpfx).trans_le hplen) (hin.symm ▸ hraw) hx
  rwa [htext] at hencode

/-- Settles O54: such a `pfx` is not what stands before the first separator of the text. -/
theorem separatorInThePrefixBreaksDecode : Obligations.SeparatorInThePrefixBreaksDecode := by
  unfold Obligations.SeparatorInThePrefixBreaksDecode
  intro s hr hplen hilen htag hsep
  have hraw := isRawAddress_inputItems hilen htag
  obtain ⟨r, hx⟩ := regroup_pad_ok 8 5 s.inputItems
  obtain ⟨t, hexec, ht⟩ := exec_encode_succeedsWith (n := false) hr hplen hraw hx
  refine ⟨t, hexec, ht.err, fun u hur hpfx hin => ?_⟩
  rw [ht.outputItems] at hin
  refine exec_failsWith_of_body hur (decode_operandsOk_iff.2 (encodedText_operandsFit hplen hraw hx hpfx hin))
    (decodeBody_of_not_accepted fun haccepted => haccepted.sep_notMem ?_ (hpfx ▸ hsep))
  rw [hin]
  simp [encodedText]

/-- Settles O56: `RG85` writes the payload symbols, `CK_GEN` their checksum symbols, and `A_ENC` the characters. -/
theorem encodeIsTheCompositionOfTheSubBlocks : Obligations.EncodeIsTheCompositionOfTheSubBlocks := by
  unfold Obligations.EncodeIsTheCompositionOfTheSubBlocks
  intro s0 t0 s1 t1 s2 t2 s3 t3 hr0 hr1 hr2 hr3 hexec0 herr0 hin1 hexec1 hpfx2 hin2 hexec2 hin3 hexec3
  obtain ⟨hplen, hraw, r, hx, hout0⟩ := exec_encode_success hr0 hexec0 herr0
  have hgroups := rawAddress_regroup_length hraw hx
  have hlen1 : s1.ilen.toNat = 21 := by rw [← s1.inputItems_length, hin1]; exact hraw.length
  obtain ⟨ht1, -⟩ := of_exec_next
    (exec_rg85_succeedsWith hr1 (rg85_operandsOk_iff.2 (by rw [hlen1]; decide)) (hin1 ▸ hx)) hexec1
  rw [ht1.outputItems] at hin2 hin3
  obtain ⟨hsym2, hsyms2⟩ := symbolInput_of_itemsOfSymbols hin2
  have hlen2 : s2.ilen.toNat = 34 := by rw [← s2.inputSymbols_length, hsyms2, hgroups]
  have ht2 := of_exec_next (exec_ckGen_succeedsWith hr2
    (ckGen_operandsOk (by rw [hlen2]; decide) ((plen_of_prefixItems hpfx2).trans_le hplen) hsym2)) hexec2
  rw [ht2.outputItems, hsyms2, hpfx2, ← List.map_append] at hin3
  obtain ⟨hsym3, hsyms3⟩ := symbolInput_of_itemsOfSymbols hin3
  have hlen3 : s3.ilen.toNat = 42 := by rw [← s3.inputSymbols_length, hsyms3]; simp [hgroups]
  have ht3 := of_exec_next (exec_aEnc_succeedsWith hr3
    (aEnc_operandsOk_iff.2 ⟨by rw [hlen3]; decide, hsym3, by rw [hlen3]; decide⟩)) hexec3
  refine ⟨ht1.err, ht2.err, ht3.err, ?_⟩
  rw [ht3.outputItems, hsyms3, hout0]
  rfl

/-- Settles O55: only 34 payload symbols make 21 bytes, the tag is the stream's first 8 bits, and the bits left over are
its last two. -/
theorem decodeSucceedsExactlyOnValidTexts : Obligations.DecodeSucceedsExactlyOnValidTexts := by
  unfold Obligations.DecodeSucceedsExactlyOnValidTexts
  intro s t hr htable hicap hplen hexec
  have hchars {syms : List Symbol} : (textBody s.inputItems).map (charToSymbol s.rlut) = syms.map some ↔
      textBody s.inputItems = syms.map symbolToChar := (map_charToSymbol_eq_iff htable).trans eq_comm
  refine ⟨⟨fun herr => ?_, ?_⟩, fun syms herr hbody => ?_⟩
  · obtain ⟨-, hpfx, syms, r, hsyms, hdec, -⟩ := exec_decode_success hr hexec herr
    exact ⟨hpfx, syms, hchars.1 hsyms, decodeSymbols_succeeds_iff.1 ⟨r, hdec⟩⟩
  · rintro ⟨hpfx, syms, hbody, hvalid⟩
    obtain ⟨r, hdec⟩ := decodeSymbols_succeeds_iff.2 hvalid
    exact (of_exec_next (exec_decode_succeedsWith hr hicap hplen hpfx (hchars.2 hbody) hdec) hexec).err
  · obtain ⟨-, hpfx, syms', r, hsyms, hdec, hout⟩ := exec_decode_success hr hexec herr
    obtain rfl : syms' = syms :=
      List.map_injective_iff.2 (Option.some_injective Symbol) (hsyms.symm.trans (hchars.2 hbody))
    obtain ⟨-, -, hx, hraw⟩ := decodeSymbols_ok_iff.1 hdec
    rw [hout]
    refine ⟨hraw.length, fun k hk => ?_⟩
    rw [regroup_nopad_streamBit (by decide) (by decide) hx (by rw [hraw.length]; exact hk)]
    exact streamBit_take (by rw [payload_length_of_regroup hx hraw.length]; omega)

end Sys2Proof.Machine
end

section
/-! The outcomes of a command that are not its success (60_exceptions.md): which errors each command's pseudocode can
raise, when the operand checks of R201 hold, what a command does before `READY`, and the idle block. -/

namespace Sys2Proof.Machine

/-! ### What the functions of a command raise (R171 to R173, R203) -/

theorem splitText_error {pfx text : List Byte} {e : ErrorCode} (h : splitText pfx text = .error e) :
    e = .wrongNetwork := by
  by_cases hacc : PrefixAccepted pfx text
  · rw [splitText_of_accepted hacc] at h
    cases h
  · rw [splitText_of_not_accepted hacc] at h
    exact (Except.error.inj h).symm

theorem checkRaw_error {b : List Byte} {e : ErrorCode} (h : checkRaw b = .error e) :
    e ∈ [ErrorCode.unknownAddressType, .invalidLength] := by
  unfold checkRaw at h
  split at h
  next => cases h; decide
  next =>
    split at h
    next => cases h; decide
    next =>
      split at h <;> cases h
      decide

theorem decodeSymbols_error {pfx : List Byte} {syms : List Symbol} {e : ErrorCode}
    (h : decodeSymbols pfx syms = .error e) :
    e ∈ [ErrorCode.checksumMismatch, .invalidPadding, .unknownAddressType, .invalidLength] := by
  unfold decodeSymbols at h
  split at h
  next => cases h; decide
  next =>
    split at h
    next => cases h; decide
    next =>
      split at h
      next hx =>
        cases h
        obtain ⟨-, rfl⟩ := regroup_error hx
        decide
      next =>
        split at h <;> cases h
        next hraw => exact List.mem_cons_of_mem _ (List.mem_cons_of_mem _ (checkRaw_error hraw))

theorem encodeBody_error {nopfx : Bool} {s : State} {e : ErrorCode} (h : encodeBody nopfx s = .error e) :
    e ∈ [ErrorCode.unknownAddressType, .invalidLength] := by
  unfold encodeBody at h
  dsimp only at h
  split at h
  next => cases h; decide
  next =>
    split at h
    next => cases h; decide
    next =>
      split at h <;> cases h
      next hx => exact absurd (regroup_error hx).1 (by decide)

theorem decodeBody_error {s : State} {e : ErrorCode} (h : decodeBody s = .error e) :
    e ∈ [ErrorCode.invalidCharacter, .checksumMismatch, .invalidPadding, .unknownAddressType, .invalidLength,
      .wrongNetwork] := by
  unfold decodeBody at h
  split at h
  next hsplit => cases h; cases splitText_error hsplit; decide
  next =>
    split at h
    next hchars =>
      cases h
      obtain ⟨rfl, -⟩ := charsToSymbols_error_iff.1 hchars
      decide
    next =>
      split at h <;> cases h
      next hdec =>
        exact List.mem_cons_of_mem _ (List.mem_append_left [ErrorCode.wrongNetwork] (decodeSymbols_error hdec))

/-! ### The errors of each command (R190's column "raised by", R203) -/

/-- The errors of `RG85` and `RG58`: with padding `regroup` does not fail. -/
def regrouperErrors (pad : Bool) : List ErrorCode := if pad then [.badOperand] else [.invalidPadding, .badOperand]

/-- The errors that a command can report in a ready state, by rising code. -/
def commandErrors : Instr → List ErrorCode
  | .aEnc | .ckGen | .ckVfy => [.badOperand]
  | .aDec => [.invalidCharacter, .badOperand]
  | .rg85 pad | .rg58 pad => regrouperErrors pad
  | .encode _ => [.unknownAddressType, .invalidLength, .badOperand]
  | .decode => [.invalidCharacter, .checksumMismatch, .invalidPadding, .unknownAddressType, .invalidLength,
      .wrongNetwork, .badOperand]

theorem badOperand_mem_commandErrors (i : Instr) : .badOperand ∈ commandErrors i := by
  cases i with
  | rg85 pad | rg58 pad => cases pad <;> decide
  | _ => simp [commandErrors]

theorem notReady_notMem_commandErrors (i : Instr) : .notReady ∉ commandErrors i := by
  cases i with
  | rg85 pad | rg58 pad => cases pad <;> decide
  | _ => simp [commandErrors]

theorem mem_regrouperErrors_of_regroup {fw tw : Nat} {pad : Bool} {gs : List (BitVec fw)} {e : ErrorCode}
    (h : regroup fw tw pad gs = .error e) : e ∈ regrouperErrors pad := by
  obtain ⟨rfl, rfl⟩ := regroup_error h
  decide

/-- What the pseudocode of a command raises is one of the command's errors. -/
theorem commandBody_error {i : Instr} {s : State} {e : ErrorCode} (h : commandBody i s = .error e) :
    e ∈ commandErrors i := by
  cases i with
  | aEnc | ckGen | ckVfy => cases h
  | aDec =>
    simp only [commandBody, aDecBody] at h
    split at h <;> cases h
    next hchars =>
      obtain ⟨rfl, -⟩ := charsToSymbols_error_iff.1 hchars
      decide
  | rg85 pad =>
    simp only [commandBody, rg85Body] at h
    split at h <;> cases h
    next hx => exact mem_regrouperErrors_of_regroup hx
  | rg58 pad =>
    simp only [commandBody, rg58Body] at h
    split at h <;> cases h
    next hx => exact mem_regrouperErrors_of_regroup hx
  | encode nopfx => exact List.mem_append_left [ErrorCode.badOperand] (encodeBody_error h)
  | decode => exact List.mem_append_left [ErrorCode.badOperand] (decodeBody_error h)

/-- In a ready state a command reports no error, or makes the error exit with one of its own errors. -/
theorem exec_ready_error_cases {i : Instr} {s t : State} (hr : s.ready = true) (h : exec i s = .next t) :
    t.err = 0#4 ∨ ∃ e ∈ commandErrors i, FailsWith s t e := by
  rw [exec_eq_command] at h
  obtain ⟨hn, -⟩ | ⟨-, -, rfl⟩ | ⟨-, -, e, hbody, rfl⟩ | ⟨-, hbad, hbody⟩ := command_cases h
  · simp [hr] at hn
  · exact .inr ⟨_, badOperand_mem_commandErrors i, raise_failsWith s _⟩
  · exact .inr ⟨e, commandBody_error hbody, raise_failsWith s e⟩
  · obtain ⟨r, hs, -⟩ := commandBody_succeedsWith hbad hbody
    exact .inl hs.err

theorem exec_err_mem {i : Instr} {s t : State} (hr : s.ready = true) (h : exec i s = .next t) :
    t.err ∈ 0#4 :: (commandErrors i).map ErrorCode.code := by
  obtain herr | ⟨e, he, hf⟩ := exec_ready_error_cases hr h
  · exact herr ▸ List.mem_cons_self
  · exact hf.err ▸ List.mem_cons_of_mem _ (List.mem_map_of_mem he)

/-- The codes of the regrouper's commands: 3 only without padding. -/
theorem mem_regrouperCodes {pad : Bool} {c : BitVec 4} (h : c ∈ 0#4 :: (regrouperErrors pad).map ErrorCode.code) :
    c ∈ [0#4, 9#4] ∨ pad = false ∧ c = 3#4 := by
  cases pad with
  | true => exact .inl h
  | false =>
    have h' : c ∈ [0#4, 3#4, 9#4] := h
    simp only [List.mem_cons, List.not_mem_nil, or_false, true_and] at h' ⊢
    tauto

/-! ### What the operand checks promise (R201) -/

section
variable {i : Instr} {s : State}

theorem ckGen_operandsOk_iff : operandsBad .ckGen s = false ↔
    s.ilen.toNat ≤ Config.ICAP ∧ s.plen.toNat ≤ Config.PCAP ∧ SymbolInput s := by
  rw [← Bool.not_eq_true, ckGen_operandsBad_iff]
  simp

theorem ckVfy_operandsOk_iff : operandsBad .ckVfy s = false ↔
    s.ilen.toNat ≤ Config.ICAP ∧ s.plen.toNat ≤ Config.PCAP ∧ SymbolInput s := by
  rw [ckVfy_operandsBad, ckGen_operandsOk_iff]

theorem ilen_le_ICAP_of_operandsOk (h : operandsBad i s = false) : s.ilen.toNat ≤ Config.ICAP := by
  cases i with
  | aEnc => exact (aEnc_operandsOk_iff.1 h).1
  | aDec => exact (aDec_operandsOk_iff.1 h).1
  | rg85 pad => exact (rg85_operandsOk_iff.1 h).1
  | rg58 pad => exact (rg58_operandsOk_iff.1 h).1
  | ckGen => exact (ckGen_operandsOk_iff.1 h).1
  | ckVfy => exact (ckVfy_operandsOk_iff.1 h).1
  | encode nopfx => exact (encode_operandsOk_iff.1 h).1
  | decode => exact (decode_operandsOk_iff.1 h).1

/-- The commands that read `PFX` pass their check only if `PLEN` fits. -/
theorem plen_le_PCAP_of_operandsOk (h : operandsBad i s = false)
    (hi : i = .ckGen ∨ i = .ckVfy ∨ i = .decode ∨ ∃ n, i = .encode n) : s.plen.toNat ≤ Config.PCAP := by
  obtain rfl | rfl | rfl | ⟨n, rfl⟩ := hi
  · exact (ckGen_operandsOk_iff.1 h).2.1
  · exact (ckVfy_operandsOk_iff.1 h).2.1
  · exact (decode_operandsOk_iff.1 h).2
  · exact (encode_operandsOk_iff.1 h).2

/-- The commands that take symbols pass their check only if every item is one. -/
theorem symbolInput_of_operandsOk (h : operandsBad i s = false)
    (hi : i = .aEnc ∨ i = .ckGen ∨ i = .ckVfy ∨ ∃ p, i = .rg58 p) : SymbolInput s := by
  obtain rfl | rfl | rfl | ⟨p, rfl⟩ := hi
  · exact (aEnc_operandsOk_iff.1 h).2.1
  · exact (ckGen_operandsOk_iff.1 h).2.2
  · exact (ckVfy_operandsOk_iff.1 h).2.2
  · exact (rg58_operandsOk_iff.1 h).2.1

/-- The alphabet commands write as many items as they read. -/
theorem ilen_le_OCAP_of_operandsOk (h : operandsBad i s = false) (hi : i = .aEnc ∨ i = .aDec) :
    s.ilen.toNat ≤ Config.OCAP := by
  obtain rfl | rfl := hi
  · exact (aEnc_operandsOk_iff.1 h).2.2
  · exact (aDec_operandsOk_iff.1 h).2

end

/-! ### Before `READY`, and without events (R199, R206, R222) -/

section
variable {s : State}

theorem issueCommand_isNotReady (v : Byte) (hr : s.ready = false) : ∃ t, issueCommand v s = .next t ∧ IsNotReady s t :=
  ⟨s.reportNotReady, by simp [issueCommand, hr], reportNotReady_isNotReady s⟩

theorem initIfEnabled_of_ready (hr : s.ready = true) : s.initIfEnabled = s := if_pos hr

theorem initIfEnabled_of_notReady (hr : s.ready = false) : s.initIfEnabled = s.init := by
  simp [State.initIfEnabled, hr]

end

/-! ### The statements -/

/-- Settles O21: the error exit changes only the report, and in a ready state none of a command's errors is
`NotReady`. -/
theorem failedCommandChangesOnlyItsReport : Obligations.FailedCommandChangesOnlyItsReport := by
  unfold Obligations.FailedCommandChangesOnlyItsReport
  intro i s t hr h herr
  obtain h0 | ⟨e, he, hf⟩ := exec_ready_error_cases hr h
  · exact absurd h0 herr
  · exact ⟨e, fun hn => notReady_notMem_commandErrors i (hn ▸ he), hf⟩

/-- Settles O24: the table of errors lists the codes of each command's own errors and 0. -/
theorem eachCommandReportsOnlyItsOwnErrors : Obligations.EachCommandReportsOnlyItsOwnErrors := by
  unfold Obligations.EachCommandReportsOnlyItsOwnErrors
  intro i s t hr h
  have herr := exec_err_mem hr h
  cases i with
  | rg85 pad | rg58 pad => exact mem_regrouperCodes herr
  | _ => exact herr

/-- Settles O27: a command whose operands pass its check meets none of the table's tests. -/
theorem badOperandTestsGiveTheErrorExit : Obligations.BadOperandTestsGiveTheErrorExit := by
  unfold Obligations.BadOperandTestsGiveTheErrorExit
  intro i s hr htest
  refine exec_failsWith_badOperand hr ?_
  rw [← Bool.not_eq_false]
  intro hok
  obtain h | ⟨hi, h⟩ | ⟨hi, h⟩ | ⟨hi, h⟩ | ⟨rfl, h⟩ | ⟨rfl, h⟩ | ⟨rfl, h⟩ | ⟨rfl, h⟩ := htest
  · exact absurd (ilen_le_ICAP_of_operandsOk hok) (Nat.not_le.2 h)
  · exact absurd (plen_le_PCAP_of_operandsOk hok hi) (Nat.not_le.2 h)
  · exact h (symbolInput_of_operandsOk hok hi)
  · exact absurd (ilen_le_OCAP_of_operandsOk hok hi) (Nat.not_le.2 h)
  · exact absurd (rg85_operandsOk_iff.1 hok).2 (Nat.not_le.2 h)
  · exact absurd (rg85_operandsOk_iff.1 hok).2 (Nat.not_le.2 h)
  · exact absurd (rg58_operandsOk_iff.1 hok).2.2 (Nat.not_le.2 h)
  · exact absurd (rg58_operandsOk_iff.1 hok).2.2 (Nat.not_le.2 h)

/-- Settles O6: the issue of a word and every command test `READY` first. -/
theorem commandBeforeReadyOnlyReportsNotReady : Obligations.CommandBeforeReadyOnlyReportsNotReady := by
  unfold Obligations.CommandBeforeReadyOnlyReportsNotReady
  refine ⟨fun s v rest he hr => ?_, fun i s hr => exec_isNotReady i hr⟩
  rw [step_of_cmd_write he]
  exact issueCommand_isNotReady v hr

/-- Settles O14: without events a step is `Init` where that is enabled. -/
theorem blockWithoutEventsInitialisesOrIdles : Obligations.BlockWithoutEventsInitialisesOrIdles := by
  unfold Obligations.BlockWithoutEventsInitialisesOrIdles
  intro s he
  rw [step_of_no_events he]
  exact ⟨fun hr => by rw [initIfEnabled_of_ready hr],
    fun hr => ⟨by rw [initIfEnabled_of_notReady hr], s.init_ready⟩⟩

end Sys2Proof.Machine
end

section
/-! `Reset` and the initialiser's turn (70_reset_and_hazards.md R220, R222): what a step that takes one of them answers,
and what each changes. -/

namespace Sys2Proof.Machine

section
variable {s : State} {rest : List Event}

theorem step_of_reset (h : s.events = .reset :: rest) :
    step s = .next { s with events := rest }.resetEvent := step_of_event h

theorem runEvent_initialiser_of_notReady (hr : s.ready = false) : runEvent .initialiser s = .next s.init := by
  rw [runEvent, initIfEnabled_of_notReady hr]

theorem runEvent_initialiser_of_ready (hr : s.ready = true) : runEvent .initialiser s = .next s := by
  rw [runEvent, initIfEnabled_of_ready hr]

theorem step_of_initialiser_of_notReady (h : s.events = .initialiser :: rest) (hr : s.ready = false) :
    step s = .next { s with events := rest }.init := (step_of_event h).trans (runEvent_initialiser_of_notReady hr)

theorem step_of_initialiser_of_ready (h : s.events = .initialiser :: rest) (hr : s.ready = true) :
    step s = .next { s with events := rest } := (step_of_event h).trans (runEvent_initialiser_of_ready hr)

end

section
variable (s : State)

/-- `Reset` takes from the state before it the model's own fields alone (R220, log 13). -/
theorem resetEvent_eq_reset_with :
    s.resetEvent = { State.reset with events := s.events, readData := s.readData, resets := s.resets + 1 } := rfl

theorem memory_read_resetEvent (a : Nat) : Memory.read s.resetEvent.mem a = none := rfl

theorem init_tableBuilt : s.init.TableBuilt := rfl

/-- `Init` changes no field but `STATUS` and `RLUT` (R222). -/
theorem init_frame : { s.init with status := s.status, rlut := s.rlut } = s := rfl

end

/-! ### The statements -/

/-- Settles O12: the fields that `Reset` writes are those of the reset state. -/
theorem resetEventRestoresTheResetValues : Obligations.ResetEventRestoresTheResetValues := by
  unfold Obligations.ResetEventRestoresTheResetValues
  intro s rest he
  obtain ⟨hready, hvok, herr, -, hplen, hilen, holen, -⟩ := resetStateHasTheStatedValues
  refine ⟨_, step_of_reset he, ?_⟩
  rw [resetEvent_eq_reset_with]
  exact ⟨rfl, hready, hvok, herr, hplen, hilen, holen, memory_read_resetEvent s, rfl⟩

/-- Settles O13: the built table inverts the alphabet because the alphabet's characters are distinct. -/
theorem initBuildsTheTableAndSetsReady : Obligations.InitBuildsTheTableAndSetsReady := by
  unfold Obligations.InitBuildsTheTableAndSetsReady
  intro s rest he
  refine ⟨fun hr => ⟨_, step_of_initialiser_of_notReady he hr, ?_⟩, step_of_initialiser_of_ready he⟩
  exact ⟨State.init_ready _, fun _ _ => charToSymbol_eq_some_iff (init_tableBuilt _), State.init_err _, State.init_vok _,
    State.init_reserved _, init_frame { s with events := rest }⟩

end Sys2Proof.Machine
end
